-- ==== Sys2Proof/Word.lean ====
section
/-! DEFINITION. The word types of ISOTP-TX: a byte, a nibble, an arbitration identifier (rules R9, R34, R70). -/

namespace Sys2Proof

/-- A data byte, bit 7 the most significant (rule R9). -/
abbrev Byte := BitVec 8

/-- Half a byte: a PCI type, a flow status, a sequence number (rules R9, R23, R71). -/
abbrev Nibble := BitVec 4

/-- An arbitration identifier, 0 to 0x7FF (rules R34, R53). -/
abbrev Ident := BitVec 11

end Sys2Proof
end

