-- ==== Sys2Proof/Config.lean ====
section
/-! DEFINITION. The constants and parameters of rule R8. A "fixed" row is a constant of the protocol; a
"parameter" row is only the DEFAULT that a power-on loads into a register of `State` (rule R210), so no
statement about a step can rest on it. `LEN_W` and `CLOCK_W` do not occur: lengths and instants are
unbounded naturals, which rule R8 allows. `PACING_OVERSHOOT` has no bound (rule R134). -/

namespace Sys2Proof.Config

/-- `FRAME_LEN`: data bytes of every emitted frame (rule R8). -/
@[simp] abbrev frameLen : Nat := 8

/-- `MAX_PAYLOAD`: the longest payload a 12-bit length field can name (rule R8). -/
@[simp] abbrev maxPayload : Nat := 4095

/-- `MIN_PAYLOAD` (rule R8). -/
@[simp] abbrev minPayload : Nat := 1

/-- `SF_MAX`: largest payload of a Single Frame (rule R8). -/
@[simp] abbrev sfMax : Nat := 7

/-- `FF_CHUNK`: payload bytes of a First Frame (rule R8). -/
@[simp] abbrev ffChunk : Nat := 6

/-- `CF_CHUNK`: most payload bytes of a Consecutive Frame (rule R8). -/
@[simp] abbrev cfChunk : Nat := 7

/-- `PAD`: every unused data byte of an emitted frame (rule R8). -/
@[simp] abbrev pad : Byte := 0x00#8

/-- `SEQ_INIT`: sequence number of the first Consecutive Frame (rules R8, R23). -/
@[simp] abbrev seqInit : Nibble := 1#4

/-- Fewest data bytes of a Flow Control frame (rules R75, R103). -/
@[simp] abbrev fcMinBytes : Nat := 3

/-- `TIME_UNIT`: 1, since every instant and duration is a natural number of microseconds (rule R8). -/
@[simp] abbrev timeUnit : Nat := 1

/-- `N_BS` at power-on, "default 1 second" in microseconds (rules R8, R210). -/
def nBsDefault : Nat := 1000000

/-- `SEND_TIMEOUT` at power-on, "default 100ms" in microseconds (rules R8, R210). -/
def sendTimeoutDefault : Nat := 100000

end Sys2Proof.Config
end

