-- ==== Sys2Proof/Syntax.lean ====
section
/-! DEFINITION. The frame types of ISOTP-TX, one constructor per row of spec/opcode_table.json (rules R71, R91),
and the reasons a decoder gives for turning bytes away. -/

namespace Sys2Proof

/-- The `direction` column of the opcode table: emitted by the block or received by it (rules R71, R91). -/
inductive Direction where
  | tx
  | rx
  deriving DecidableEq, Repr

/-- One frame, as a row of the opcode table. A received frame has 0 to 8 data bytes, so its trailing bytes are
a list; they are carried and never examined (rules R75, R87). -/
inductive Instr where
  /-- Row SF, emitted (rule R72): `SF_DL` is the length of the payload carried. -/
  | sf (payload : List Byte)
  /-- Row FF, emitted (rule R73): `FF_DL` and the six payload bytes. -/
  | ff (totalLength : BitVec 12) (firstChunk : List Byte)
  /-- Row CF, emitted (rule R74): `SN` and the seven data bytes, padding included, since the frame does not say
  how many of them are payload. -/
  | cf (sn : Nibble) (data : List Byte)
  /-- Row FC.CTS, received, flow status 0 (rules R75, R152). -/
  | fcCts (bs stMin : Byte) (rest : List Byte)
  /-- Row FC.WAIT, received, flow status 1 (rules R75, R150). -/
  | fcWait (bs stMin : Byte) (rest : List Byte)
  /-- Row FC.OVFL, received, flow status 2 (rules R75, R151). -/
  | fcOvfl (bs stMin : Byte) (rest : List Byte)
  /-- First row FC.UNKNOWN, received, flow status 3 (rules R84, R149). -/
  | fcUnknown3 (bs stMin : Byte) (rest : List Byte)
  /-- Second row FC.UNKNOWN, received, flow status 4 to 7: `01ff` (rules R84, R149). -/
  | fcUnknown4to7 (f : BitVec 2) (bs stMin : Byte) (rest : List Byte)
  /-- Third row FC.UNKNOWN, received, flow status 8 to 15: `1fff` (rules R84, R149). -/
  | fcUnknown8to15 (f : BitVec 3) (bs stMin : Byte) (rest : List Byte)
  /-- Row RX.NOTFC of type 0x0 or 0x1: `000t` (rules R83, R148). -/
  | rxType0to1 (t : BitVec 1) (low : Nibble) (rest : List Byte)
  /-- Row RX.NOTFC of type 0x2 (rules R83, R148). -/
  | rxType2 (low : Nibble) (rest : List Byte)
  /-- Row RX.NOTFC of unassigned type 0x4 to 0x7: `01tt` (rules R83, R148). -/
  | rxType4to7 (t : BitVec 2) (low : Nibble) (rest : List Byte)
  /-- Row RX.NOTFC of unassigned type 0x8 to 0xF: `1ttt` (rules R83, R148). -/
  | rxType8to15 (t : BitVec 3) (low : Nibble) (rest : List Byte)
  /-- Row RX.NOTFC of fewer than three data bytes, whatever they hold (rules R83, R91, R103). -/
  | rxShort (data : List Byte)
  deriving DecidableEq, Repr

/-- The direction of an instruction's row. -/
def Instr.direction : Instr → Direction
  | .sf _ | .ff _ _ | .cf _ _ => .tx
  | .fcCts _ _ _ | .fcWait _ _ _ | .fcOvfl _ _ _ => .rx
  | .fcUnknown3 _ _ _ | .fcUnknown4to7 _ _ _ _ | .fcUnknown8to15 _ _ _ _ => .rx
  | .rxType0to1 _ _ _ | .rxType2 _ _ | .rxType4to7 _ _ _ | .rxType8to15 _ _ _ | .rxShort _ => .rx

/-- The `mnemonic` column of the opcode table (rule R91): a received frame may be spelled by several rows. -/
inductive Mnemonic where
  | sf
  | ff
  | cf
  | fcCts
  | fcWait
  | fcOvfl
  | fcUnknown
  | rxNotFc
  deriving DecidableEq, Repr

/-- The mnemonic of an instruction's row. -/
def Instr.mnemonic : Instr → Mnemonic
  | .sf _ => .sf
  | .ff _ _ => .ff
  | .cf _ _ => .cf
  | .fcCts _ _ _ => .fcCts
  | .fcWait _ _ _ => .fcWait
  | .fcOvfl _ _ _ => .fcOvfl
  | .fcUnknown3 _ _ _ | .fcUnknown4to7 _ _ _ _ | .fcUnknown8to15 _ _ _ _ => .fcUnknown
  | .rxType0to1 _ _ _ | .rxType2 _ _ | .rxType4to7 _ _ _ | .rxType8to15 _ _ _ | .rxShort _ => .rxNotFc

/-- Why bytes are no frame of a direction. -/
inductive DecodeError where
  /-- More than eight data bytes: no frame of this bus (rules R52, R70). -/
  | tooManyBytes
  /-- An emitted frame has exactly eight data bytes (rules R52, R86). -/
  | notEightBytes
  /-- `SF_DL` of 0 or 8 to 15 is never emitted (rule R86). -/
  | sfLengthOutOfRange
  /-- A padding byte other than 0x00 is never emitted (rule R86). -/
  | sfPaddingNotZero
  /-- `FF_DL` of 0 to 7 is never emitted (rule R86). -/
  | ffLengthOutOfRange
  /-- Types 0x3 to 0xF are never emitted (rules R71, R86). -/
  | typeNeverEmitted
  deriving DecidableEq, Repr

end Sys2Proof
end

