-- ==== Sys2Proof/Machine/State.lean ====
section
/-! DEFINITION. Everything the spec gives the machine, as plain data: the session registers (rules R20 to R32),
the command, parameter and status registers (R33 to R39), the two time registers (R42), and the other agents'
side of the block's interface (R13, R43, R46): the clock, the BusAdapter's receive queue, the answers it has
ready, the calls made on it, the trace, and the inputs, listed and recurring, that the host
and the clock bring to the next steps.
INVENTORY.md lists each field with its rule. -/

namespace Sys2Proof.Machine

/-- The terminal error kinds of the block (rules R27, R180). -/
inductive ErrorKind where
  | payloadTooLong
  | flowControlTimeout
  | flowControlOverflow
  deriving DecidableEq, Repr

/-- The nine values of `S.state` (rule R27). -/
inductive MState where
  | idle
  | sendingSingleFrame
  | sendingFirstFrame
  | awaitingFlowControl
  | sendingConsecutiveFrames
  | done
  | error (kind : ErrorKind)
  deriving DecidableEq, Repr

/-- The outcomes of a session (rule R81); `Status.code` in Machine/Flags.lean numbers them. -/
inductive Status where
  | success
  | payloadTooLong
  | timeoutInitial
  | overflowInitial
  | timeoutMidTransfer
  | overflowMidTransfer
  | timeoutResolvingWait
  deriving DecidableEq, Repr

/-- The answer of a `BusSend` (rule R197). -/
inductive SendResult where
  | ok
  | sendFailed
  deriving DecidableEq, Repr

/-- One answer the BusAdapter has ready for a `BusSend`, and how long that call takes (rules R189, R197). -/
structure SendAnswer where
  result : SendResult
  took : Nat
  deriving DecidableEq, Repr

/-- The arguments of START (rules R33 to R36, R141); `channel` is no state (rule R37). -/
structure StartCommand where
  txId : Ident
  fcId : Ident
  verbose : Bool
  payload : List Byte
  deriving DecidableEq, Repr

/-- What the host, or the board, can do to the block (rules R141, R158, R210, R212). -/
inductive HostEvent where
  | start (cmd : StartCommand)
  | reset
  deriving DecidableEq, Repr

/-- The outside inputs of one step (rules R13, R46): how far the clock has moved since the last reading, what
the host does, which frames have reached the BusAdapter, and whether the adapter answers `None` to a `BusRecv`. -/
structure StepInput where
  elapsed : Nat
  host : Option HostEvent
  arrivals : List (List Byte)
  recvNone : Bool
  deriving DecidableEq, Repr

/-- A call on the BusAdapter, with the clock reading at the call (rules R10, R196 to R198). -/
inductive BusEvent where
  | send (instant : Nat) (id : Ident) (data : List Byte) (answer : SendResult)
  | recv (instant : Nat) (filter : Ident) (timeout : Nat) (answer : Option (List Byte))
  deriving DecidableEq, Repr

/-- The one mandatory event of the trace (rule R202). -/
inductive LogEvent where
  | sendFailedSf
  | sendFailedFf
  | sendFailedCf (sn : Nibble)
  deriving DecidableEq, Repr

/-- The payload space (rule R50): address and byte pairs, addresses strictly rising; an address that is not
listed holds no byte, and reading it is a fault (rule R51). -/
abbrev Memory := List Host.Cell

/-- The machine. -/
structure State where
  /-- `S.state` (rule R27). -/
  state : MState
  /-- `S.total_len` (rule R21). -/
  totalLen : BitVec 12
  /-- `S.consumed` (rule R22). -/
  consumed : BitVec 12
  /-- `S.seq` (rule R23). -/
  seq : Nibble
  /-- `S.bs_unlimited` (rules R24, R29). -/
  bsUnlimited : Bool
  /-- `S.bs_rem` (rule R24). -/
  bsRem : Byte
  /-- `S.sep_us` (rule R25). -/
  sepUs : BitVec 17
  /-- `S.granted` (rule R30). -/
  granted : Bool
  /-- `S.wait_seen` (rule R31). -/
  waitSeen : Bool
  /-- `S.result`, which `STATUS` shows (rules R26, R39). -/
  result : Option Status
  /-- `TXID` (rule R34). -/
  txId : Ident
  /-- `FCID` (rule R34). -/
  fcId : Ident
  /-- `VERBOSE` (rule R36). -/
  verbose : Bool
  /-- `LEN` (rule R35). -/
  len : Nat
  /-- The payload snapshot (rules R35, R50, R68). -/
  payload : Memory
  /-- `N_BS` in microseconds (rule R38). -/
  nBs : Nat
  /-- `SEND_TIMEOUT` in microseconds, never read by the block (rule R38). -/
  sendTimeout : Nat
  /-- `fc_deadline` (rule R42). -/
  fcDeadline : Nat
  /-- `t_last` (rule R42). -/
  tLast : Nat
  /-- The clock agent's `now`, in microseconds (rule R130). -/
  now : Nat
  /-- The frames the BusAdapter holds for the block, oldest first (rules R43, R64, R216). -/
  rxQueue : List (List Byte)
  /-- The answers to the next `BusSend` calls, in order (rules R46, R197). -/
  sendAnswers : List SendAnswer
  /-- The outside inputs of the next steps, in order (rules R13, R46). -/
  inputs : List StepInput
  /-- The outside inputs that come round again and again once `inputs` has run out: an outside that never falls silent,
  such as a peer that sends Wait for ever (rules R217, R225; log entry 4). -/
  recurring : List StepInput
  /-- Every `BusSend` and `BusRecv` made so far, oldest first: what the peer can see (rules R20, R63, R65). -/
  bus : List BusEvent
  /-- The append-only trace (rules R43, R202). -/
  log : List LogEvent
  deriving DecidableEq, Repr

/-- A failed precondition of a codec function (rules R100 to R102, R107). -/
inductive CodecFailure where
  /-- More than seven bytes for a Single Frame (rule R100). -/
  | payloadTooLong
  /-- No byte for a Single Frame (rule R100). -/
  | payloadEmpty
  /-- A First Frame length outside 8 to 4095, or a first chunk that is not six bytes (rule R101). -/
  | firstFrameOperands
  /-- A Consecutive Frame sequence number above 15 or a chunk above seven bytes (rule R102). -/
  | consecutiveFrameOperands
  deriving DecidableEq, Repr

/-- Why the machine stops with a fault. -/
inductive Fault where
  /-- A payload byte is read outside `payload[0 .. S.total_len - 1]`. Raised when the block builds a frame from
  such bytes (Machine/Operands.lean, `memRead`). Rule R51: "There is no fault for an out-of-range read because
  none can happen": no state that meets the invariant of Safety.lean raises it. Safe: the run stops. -/
  | payloadOutOfRange (addr n : Nat)
  deriving DecidableEq, Repr

/-- Why a step has no meaning. -/
inductive Refusal where
  /-- The instruction has no meaning yet. Raised by the dispatcher only. Safe. -/
  | notModelled (mnemonic : String)
  /-- START while `busy` (rules R32, R141): the spec has no step for it. Raised by `start`. Safe. -/
  | startWhileBusy
  /-- START with an empty payload (rules R35, R141; 90_conflicts.md C1). Raised by `start`. Safe. -/
  | startEmptyPayload
  /-- The frame has no edge in this `S.state` (rule R140: "There is no other edge"). Raised by every meaning;
  the step never asks for such a frame. Safe. -/
  | noEdge
  /-- The frame is not the one the block builds in this state (rules R144, R145, R154): the block never emits
  another. Raised by the three emitting meanings; the step never asks for such a frame. Safe. -/
  | notTheFrameBuilt
  /-- A codec call outside its precondition (rule R107, 93 U8). Raised when the block builds a frame; no state
  that meets the invariant raises it. Safe. -/
  | codec (why : CodecFailure)
  /-- Bytes that are no frame of their direction, such as a received frame of nine bytes (rule R52, 91 N26).
  Raised by the step. Safe. -/
  | undecodable (why : DecodeError)
  deriving DecidableEq, Repr

/-- Either way of stopping, for the operations that may stop before a next state is known. -/
inductive Stop where
  | fault (why : Fault)
  | refusal (why : Refusal)
  deriving DecidableEq, Repr

/-- The machine right after power-on (rules R44, R210): `Idle`, no result, the parameter registers at their
defaults. The spec leaves every other register unspecified; their values here are DESIGN CHOICE (log entry 1). -/
def State.reset : State where
  state := .idle
  totalLen := 0#12
  consumed := 0#12
  seq := 0#4
  bsUnlimited := false
  bsRem := 0#8
  sepUs := 0#17
  granted := false
  waitSeen := false
  result := none
  txId := 0#11
  fcId := 0#11
  verbose := false
  len := 0
  payload := []
  nBs := Config.nBsDefault
  sendTimeout := Config.sendTimeoutDefault
  fcDeadline := 0
  tLast := 0
  now := 0
  rxQueue := []
  sendAnswers := []
  inputs := []
  recurring := []
  bus := []
  log := []

end Sys2Proof.Machine
end

