-- ==== Sys2Proof/Machine/Flags.lean ====
section
/-! DEFINITION. The flags and the status register: `busy` (rule R32), the status codes (rule R81), and which code
an error takes from `S.granted` and `S.wait_seen` (rules R151, R153, R182, R183). The flags themselves are
fields of `State`; no instruction sets condition codes (rule R32). -/

namespace Sys2Proof.Machine

/-- The session is running (rule R32). -/
def MState.busy : MState → Bool
  | .sendingSingleFrame | .sendingFirstFrame | .awaitingFlowControl | .sendingConsecutiveFrames => true
  | .idle | .done | .error _ => false

/-- `busy`, derived and not stored (rule R32). -/
def State.busy (s : State) : Bool := s.state.busy

/-- The status code table of rule R81, in one place (93 G1). Code 1 is unassigned (rule R186). -/
def Status.code : Status → BitVec 3
  | .success => 0
  | .payloadTooLong => 2
  | .timeoutInitial => 3
  | .overflowInitial => 4
  | .timeoutMidTransfer => 5
  | .overflowMidTransfer => 6
  | .timeoutResolvingWait => 7

/-- The `STATUS` register as the host reads it: no valid bit, or the code (rule R39). A read changes nothing. -/
def State.status (s : State) : Option (BitVec 3) := s.result.map Status.code

/-- The code of a timeout, by the two flags (rules R153, R182). -/
def timeoutStatus (granted waitSeen : Bool) : Status :=
  if granted then (if waitSeen then .timeoutResolvingWait else .timeoutMidTransfer) else .timeoutInitial

/-- The code of an Overflow, by `S.granted` alone (rules R151, R183). -/
def overflowStatus (granted : Bool) : Status :=
  if granted then .overflowMidTransfer else .overflowInitial

/-- The error kind a terminal status belongs to (rule R81); success has none. -/
def Status.kind : Status → Option ErrorKind
  | .success => none
  | .payloadTooLong => some .payloadTooLong
  | .timeoutInitial | .timeoutMidTransfer | .timeoutResolvingWait => some .flowControlTimeout
  | .overflowInitial | .overflowMidTransfer => some .flowControlOverflow

end Sys2Proof.Machine
end

