-- ==== Sys2Proof/Decode.lean ====
section
/-! DEFINITION. From bytes to instructions and back (spec/30_encoding.md). `decode` is total on any bytes and
turns away by name what is no frame of the direction asked for; `encode` writes a well-formed instruction's
bytes from the same tables. Byte 0 is the first data byte of the frame (rules R9, R70). -/

namespace Sys2Proof

/-- The "high nibble" of a byte (rule R9): the PCI type of byte 0 (rule R71). -/
def hiNibble (b : Byte) : Nibble := b.extractLsb' 4 4

/-- The "low nibble" of a byte (rule R9): the type-specific value of byte 0. -/
def loNibble (b : Byte) : Nibble := b.extractLsb' 0 4

/-- `pad8`: the bytes followed by as many `PAD` bytes as make the length 8 (rule R10). -/
def pad8 (bs : List Byte) : List Byte := bs ++ List.replicate (Config.frameLen - bs.length) Config.pad

/-- The instruction's data bytes, byte 0 first, from the `encoding` column of the opcode table and the formats
of rules R72 to R75. -/
def encode : Instr → List Byte
  | .sf payload => pad8 ((0x0#4 ++ BitVec.ofNat 4 payload.length) :: payload)
  | .ff totalLength firstChunk =>
      (0x1#4 ++ totalLength.extractLsb' 8 4) :: totalLength.extractLsb' 0 8 :: firstChunk
  | .cf sn data => (0x2#4 ++ sn) :: data
  | .fcCts bs stMin rest => (0x3#4 ++ 0x0#4) :: bs :: stMin :: rest
  | .fcWait bs stMin rest => (0x3#4 ++ 0x1#4) :: bs :: stMin :: rest
  | .fcOvfl bs stMin rest => (0x3#4 ++ 0x2#4) :: bs :: stMin :: rest
  | .fcUnknown3 bs stMin rest => (0x3#4 ++ 0x3#4) :: bs :: stMin :: rest
  | .fcUnknown4to7 f bs stMin rest => (0x3#4 ++ (0b01#2 ++ f)) :: bs :: stMin :: rest
  | .fcUnknown8to15 f bs stMin rest => (0x3#4 ++ (0b1#1 ++ f)) :: bs :: stMin :: rest
  | .rxType0to1 t low rest => ((0b000#3 ++ t) ++ low) :: rest
  | .rxType2 low rest => (0x2#4 ++ low) :: rest
  | .rxType4to7 t low rest => ((0b01#2 ++ t) ++ low) :: rest
  | .rxType8to15 t low rest => ((0b1#1 ++ t) ++ low) :: rest
  | .rxShort data => data

/-- A Single Frame's fields (rule R72), turned away where the block would never emit them (rule R86). -/
def decodeSf (dl : Nibble) (data : List Byte) : Except DecodeError Instr :=
  if dl.toNat < Config.minPayload ∨ Config.sfMax < dl.toNat then .error .sfLengthOutOfRange
  else if (data.drop dl.toNat).all (· == Config.pad) then .ok (.sf (data.take dl.toNat))
  else .error .sfPaddingNotZero

/-- A First Frame's fields: the 12-bit total length is big-endian across the PCI (rules R56, R73, R76). -/
def decodeFf (high : Nibble) (low : Byte) (chunk : List Byte) : Except DecodeError Instr :=
  if (high ++ low : BitVec 12).toNat < 8 then .error .ffLengthOutOfRange
  else .ok (.ff (high ++ low) chunk)

/-- The instruction an emitted frame's bytes stand for (rules R72 to R74, R86). -/
def decodeTx (d : List Byte) : Except DecodeError Instr :=
  if d.length ≠ Config.frameLen then .error .notEightBytes
  else match d with
    | b0 :: b1 :: tail =>
        if hiNibble b0 = 0x0#4 then decodeSf (loNibble b0) (b1 :: tail)
        else if hiNibble b0 = 0x1#4 then decodeFf (loNibble b0) b1 tail
        else if hiNibble b0 = 0x2#4 then .ok (.cf (loNibble b0) (b1 :: tail))
        else .error .typeNeverEmitted
    | _ => .error .notEightBytes

/-- A Flow Control frame by its flow status (rules R75, R84, R89). -/
def decodeFc (fs : Nibble) (bs stMin : Byte) (rest : List Byte) : Instr :=
  if fs = 0x0#4 then .fcCts bs stMin rest
  else if fs = 0x1#4 then .fcWait bs stMin rest
  else if fs = 0x2#4 then .fcOvfl bs stMin rest
  else if fs = 0x3#4 then .fcUnknown3 bs stMin rest
  else if fs.extractLsb' 3 1 = 0b1#1 then .fcUnknown8to15 (fs.extractLsb' 0 3) bs stMin rest
  else .fcUnknown4to7 (fs.extractLsb' 0 2) bs stMin rest

/-- A received frame of three or more bytes whose type is not Flow Control (rules R71, R83). -/
def decodeNotFc (type low : Nibble) (rest : List Byte) : Instr :=
  if type.extractLsb' 3 1 = 0b1#1 then .rxType8to15 (type.extractLsb' 0 3) low rest
  else if type.extractLsb' 2 1 = 0b1#1 then .rxType4to7 (type.extractLsb' 0 2) low rest
  else if type = 0x2#4 then .rxType2 low rest
  else .rxType0to1 (type.extractLsb' 0 1) low rest

/-- The instruction a received frame's bytes stand for: the length test first, then the type nibble, then the
flow status (rules R89, R193). It turns nothing away but what cannot be presented (rule R52). -/
def decodeRx (d : List Byte) : Except DecodeError Instr :=
  if Config.frameLen < d.length then .error .tooManyBytes
  else match d with
    | b0 :: b1 :: b2 :: rest =>
        if hiNibble b0 = 0x3#4 then .ok (decodeFc (loNibble b0) b1 b2 rest)
        else .ok (decodeNotFc (hiNibble b0) (loNibble b0) (b1 :: b2 :: rest))
    | short => .ok (.rxShort short)

/-- The decoder: the direction says on which side of the block the bytes stand (rules R71, R91). -/
def decode (dir : Direction) (d : List Byte) : Except DecodeError Instr :=
  match dir with
  | .tx => decodeTx d
  | .rx => decodeRx d

/-- The data bytes of a word of the opcode table: the word is ONE number of `nbits` bits, bit 0 its least
significant, and byte 0 stands in the top bits (rules R9, R70, R91). -/
def tableBytes (nbits w : Nat) : List Byte :=
  (List.range (nbits / 8)).map fun k => BitVec.ofNat 8 (w >>> (nbits - 8 * (k + 1)))

/-- The instruction the decoder reads from a word of the opcode table. The word does not say its direction:
it is read as an emitted frame where it is one, else as a received one (log entry 14, DESIGN CHOICE). -/
def decodeTableWord (nbits w : Nat) : Option Instr :=
  match decode .tx (tableBytes nbits w) with
  | .ok i => some i
  | .error _ => match decode .rx (tableBytes nbits w) with
    | .ok i => some i
    | .error _ => none

end Sys2Proof
end

