-- ==== Sys2Proof/Machine/FrameCodec.lean ====
section
/-! DEFINITION. FrameCodec (spec/40_frame_codec.md): pure functions over bytes. The block builds its frames with the
three encoders; the reference decoders of rule R104 exist only so that the round-trip laws can be stated. -/

namespace Sys2Proof.Machine

/-- `encodeSingleFrame` (rule R100). -/
def encodeSingleFrame (p : List Byte) : Except CodecFailure (List Byte) :=
  if Config.sfMax < p.length then .error .payloadTooLong
  else if p.length = 0 then .error .payloadEmpty
  else .ok (pad8 (((0x0#8 <<< 4) ||| BitVec.ofNat 8 p.length) :: p))

/-- `encodeFirstFrame` (rule R101). -/
def encodeFirstFrame (totalLength : Nat) (chunk : List Byte) : Except CodecFailure (List Byte) :=
  if 8 ≤ totalLength ∧ totalLength ≤ Config.maxPayload ∧ chunk.length = Config.ffChunk then
    .ok ((0x10#8 ||| (BitVec.ofNat 8 (totalLength >>> 8) &&& 0xF#8)) ::
      BitVec.ofNat 8 (totalLength &&& 0xFF) :: chunk)
  else .error .firstFrameOperands

/-- `encodeConsecutiveFrame` (rule R102). -/
def encodeConsecutiveFrame (seq : Nat) (chunk : List Byte) : Except CodecFailure (List Byte) :=
  if seq ≤ 15 ∧ chunk.length ≤ Config.cfChunk then
    .ok (pad8 ((0x20#8 ||| (BitVec.ofNat 8 seq &&& 0xF#8)) :: chunk))
  else .error .consecutiveFrameOperands

/-- `decodeFlowControl` (rule R103): `none` is "not a Flow Control frame". -/
def decodeFlowControl (d : List Byte) : Option (Nibble × Byte × Byte) :=
  match d with
  | b0 :: b1 :: b2 :: _ => if b0 >>> 4 = 0x3#8 then some (loNibble b0, b1, b2) else none
  | _ => none

/-- `decodeFirstFrame`, a reference decoder and no hardware (rule R104). -/
def decodeFirstFrame (d : List Byte) : Option (Nat × List Byte) :=
  match d with
  | b0 :: b1 :: chunk =>
      if hiNibble b0 = 0x1#4 then some (((loNibble b0).toNat <<< 8) ||| b1.toNat, chunk) else none
  | _ => none

/-- `decodeConsecutiveFrame`, a reference decoder and no hardware (rule R104). -/
def decodeConsecutiveFrame (d : List Byte) : Option (Nat × List Byte) :=
  match d with
  | b0 :: data => if hiNibble b0 = 0x2#4 then some ((loNibble b0).toNat, data) else none
  | _ => none

/-- `decodeSingleFrame`, a reference decoder and no hardware (rule R104). -/
def decodeSingleFrame (d : List Byte) : Option (List Byte) :=
  match d with
  | b0 :: data =>
      if hiNibble b0 = 0x0#4 ∧ 1 ≤ (loNibble b0).toNat ∧ (loNibble b0).toNat ≤ 7 then
        some (data.take (loNibble b0).toNat)
      else none
  | _ => none

end Sys2Proof.Machine
end

