-- ==== Sys2Proof/Machine/FlowControl.lean ====
section
/-! DEFINITION. FlowControlInterpreter (spec/41_flow_control_interpreter.md): pure functions of the three values of
a Flow Control frame. -/

namespace Sys2Proof.Machine

/-- The result of `classify` (rule R120). -/
inductive FlowStatus where
  | clearToSend
  | wait
  | overflow
  | unknown
  deriving DecidableEq, Repr

/-- `classify` (rule R120). -/
def classify (fs : Nibble) : FlowStatus :=
  if fs = 0#4 then .clearToSend
  else if fs = 1#4 then .wait
  else if fs = 2#4 then .overflow
  else .unknown

/-- `interpret`: the separation time of an STmin code in microseconds, 17 bits; reserved codes give 0
(rules R79, R85, R121). -/
def interpret (c : Byte) : BitVec 17 :=
  if c.toNat ≤ 0x7F then BitVec.ofNat 17 (c.toNat * 1000)
  else if 0xF1 ≤ c.toNat ∧ c.toNat ≤ 0xF9 then BitVec.ofNat 17 ((c.toNat - 0xF0) * 100)
  else 0#17

/-- The result of `blockLimit` (rule R122). -/
inductive BlockLimit where
  | unlimited
  | limit (n : Byte)
  deriving DecidableEq, Repr

/-- `blockLimit`: the meaning of the `BS` byte (rules R80, R122). -/
def blockLimit (bs : Byte) : BlockLimit := if bs = 0#8 then .unlimited else .limit bs

/-- The structured decision for one received frame (rule R123). -/
inductive Decision where
  | ignore
  | waitMore
  | abort
  | grant (lim : BlockLimit) (sep : BitVec 17)
  deriving DecidableEq, Repr

/-- `decide` of rule R123, on the bytes of a received frame. -/
def decideFrame (d : List Byte) : Decision :=
  match decodeFlowControl d with
  | none => .ignore
  | some (fs, bs, st) => match classify fs with
    | .clearToSend => .grant (blockLimit bs) (interpret st)
    | .wait => .waitMore
    | .overflow => .abort
    | .unknown => .ignore

end Sys2Proof.Machine
end

