-- ==== Sys2Proof/Machine/Ops.lean ====
section
/-! DEFINITION. The shared operations: the payload memory, the clock, the BusAdapter's two primitives, the trace,
taking an error, START, and the transitions of spec/43_transmission_state_machine.md that the meanings call. -/

namespace Sys2Proof.Machine

/-- The result of a step. -/
abbrev Result := Host.Outcome State Fault Refusal

/-- A stop as the result of a step. -/
def Stop.result : Stop → Result
  | .fault why => .fault why
  | .refusal why => .refused why

/-! ## The payload space (rules R50, R51) -/

/-- The canonical form: addresses strictly rising. No entry can equal what an unlisted address reads as, since an
unlisted address holds no byte. -/
abbrev Memory.wf (m : Memory) : Prop := m.Pairwise fun a b => a.1 < b.1

/-- One byte of the payload space; `none` outside `payload[0 .. LEN-1]`, which does not exist (rule R50). -/
def Memory.read : Memory → Nat → Option Byte
  | [], _ => none
  | (k, b) :: m, a => if k = a then some b else Memory.read m a

/-- The bytes at `addr, addr + 1, …`, `n` of them, when each exists. -/
def Memory.readRange (m : Memory) (addr : Nat) : Nat → Option (List Byte)
  | 0 => some []
  | n + 1 => match m.read addr, Memory.readRange m (addr + 1) n with
    | some b, some bs => some (b :: bs)
    | _, _ => none

/-- Bytes laid out from an address on. -/
def Memory.ofBytesFrom (addr : Nat) : List Byte → Memory
  | [] => []
  | b :: bs => (addr, b) :: Memory.ofBytesFrom (addr + 1) bs

/-- The snapshot START takes of the payload (rules R50, R68): the only thing that ever writes this memory. -/
def Memory.ofBytes (bs : List Byte) : Memory := Memory.ofBytesFrom 0 bs

/-! ## The clock (rules R130 to R135) -/

/-- The clock moves on. -/
def State.advance (s : State) (elapsed : Nat) : State := { s with now := s.now + elapsed }

/-- The block is suspended for this step (rule R189): nothing but the clock moves, by one `TIME_UNIT`
(log entry 5, DESIGN CHOICE). -/
def State.wait (s : State) : State := s.advance Config.timeUnit

/-- `ready_at`: the earliest instant of the next Consecutive Frame (rule R131). -/
def State.readyAt (s : State) : Nat := s.tLast + s.sepUs.toNat

/-- The pacing guard, `waitUntilReady` as a condition (rule R131). -/
def State.pacingReady (s : State) : Bool := decide (s.readyAt ≤ s.now)

/-! ## The outside inputs of a step (rules R13, R46) -/

/-- Nothing happens outside, and no time has passed. -/
def StepInput.quiet : StepInput := { elapsed := 0, host := none, arrivals := [], recvNone := false }

/-- The inputs of this step: the next listed one, else the next of those that recur, else a quiet one (log entries 4
and 5, DESIGN CHOICE). -/
def State.nextInput (s : State) : StepInput :=
  match s.inputs, s.recurring with
  | i :: _, _ => i
  | [], i :: _ => i
  | [], [] => StepInput.quiet

/-- One turn of a cycle: its first element goes to the end. -/
def turn : List StepInput → List StepInput
  | [] => []
  | i :: is => is ++ [i]

/-- The recurring inputs after this step: they turn only when no listed input is left. -/
def State.nextRecurring (s : State) : List StepInput :=
  match s.inputs with
  | _ :: _ => s.recurring
  | [] => turn s.recurring

/-- The state in which this step acts: the clock has been read, and the frames that have arrived stand in the
adapter's queue, behind those that came before (rules R64, R198). -/
def State.afterInput (s : State) : State :=
  { s with
    inputs := s.inputs.tail
    recurring := s.nextRecurring
    now := s.now + s.nextInput.elapsed
    rxQueue := s.rxQueue ++ s.nextInput.arrivals }

/-! ## The trace (rule R202) -/

/-- `Log(e)`. -/
def State.record (s : State) (e : LogEvent) : State := { s with log := s.log ++ [e] }

/-- The one `Log` event of a failed send (rules R157, R184, R202). -/
def State.logFailure (s : State) (r : SendResult) (e : LogEvent) : State :=
  match r with
  | .ok => s
  | .sendFailed => s.record e

/-! ## The BusAdapter (rules R196 to R199) -/

/-- `BusSend(TXID, d)` answered by `a`: the call is recorded, it takes its time, and `t_last` is the reading at
its return, whatever the answer (rules R133, R197). -/
def State.sent (s : State) (d : List Byte) (a : SendAnswer) : State :=
  { s with
    now := s.now + a.took
    tLast := s.now + a.took
    sendAnswers := s.sendAnswers.tail
    bus := s.bus ++ [.send s.now s.txId d a.result] }

/-- Emit a frame and go on with `after`, the same for both answers (rule R157). While the adapter has no answer
ready the block is held inside the call (rules R189, R217 `P_FAIR`; log entry 6). -/
def State.emit (s : State) (d : List Byte) (e : LogEvent) (after : State → State) : Result :=
  match s.sendAnswers with
  | [] => .next s.wait
  | a :: _ => .next (after ((s.sent d a).logFailure a.result e))

/-- `BusRecv(FCID, fc_deadline - now)` answered by `a` (rules R147, R166, R198). -/
def State.recvAnswered (s : State) (a : Option (List Byte)) : State :=
  { s with bus := s.bus ++ [.recv s.now s.fcId (s.fcDeadline - s.now) a] }

/-- What one `BusRecv` gives. -/
inductive Received where
  /-- No answer yet: the block is suspended inside the call. -/
  | pending
  /-- The answer `None`. -/
  | timedOut (s : State)
  /-- The answer `Frame(d)`; the frame is consumed. -/
  | frame (d : List Byte) (s : State)
  deriving DecidableEq, Repr

/-- `BusRecv` (rules R147, R194, R198): the oldest frame while `now <= fc_deadline`, `None` from
`now >= fc_deadline` on. At `now = fc_deadline` with a frame there the adapter's choice decides, and an adapter
that answers `None` early is admitted (log entry 7). -/
def State.busRecv (s : State) (recvNone : Bool) : Received :=
  match s.rxQueue with
  | [] => if recvNone ∨ s.fcDeadline ≤ s.now then .timedOut (s.recvAnswered none) else .pending
  | d :: rest =>
      if recvNone ∨ s.fcDeadline < s.now then .timedOut (s.recvAnswered none)
      else .frame d { s.recvAnswered (some d) with rxQueue := rest }

/-! ## Errors (rules R180 to R195) -/

/-- `raise Error(kind)` with its code (rule R191): "does exactly this, in one step". There is no saved register,
no vector and no return (rules R191, R195); START is the only way on. -/
def State.raiseError (s : State) (kind : ErrorKind) (status : Status) : State :=
  { s with state := .error kind, result := some status }

/-! ## Transitions (spec/43_transmission_state_machine.md) -/

/-- Session creation and path choice (rule R143). `S.bs_rem`, `fc_deadline` and `t_last` are not written. -/
def State.createSession (s : State) (cmd : StartCommand) : State :=
  { s with
    state := if cmd.payload.length ≤ Config.sfMax then .sendingSingleFrame else .sendingFirstFrame
    totalLen := BitVec.ofNat 12 cmd.payload.length
    consumed := 0#12
    seq := Config.seqInit
    bsUnlimited := true
    sepUs := 0#17
    granted := false
    waitSeen := false
    result := none
    txId := cmd.txId
    fcId := cmd.fcId
    verbose := cmd.verbose
    len := cmd.payload.length
    payload := Memory.ofBytes cmd.payload }

/-- START (rules R141 to R143, R193): accepted only when `busy = 0` and the payload is not empty; the length test
comes before anything of the session. -/
def State.start (s : State) (cmd : StartCommand) : Result :=
  if s.busy then .refused .startWhileBusy
  else if cmd.payload.length < Config.minPayload then .refused .startEmptyPayload
  else if Config.maxPayload < cmd.payload.length then .next (s.raiseError .payloadTooLong .payloadTooLong)
  else .next (s.createSession cmd)

/-- A hardware reset (rules R210, R212): the block as after power-on; the other agents keep their state. -/
def State.powerOn (s : State) : State :=
  { State.reset with
    now := s.now
    rxQueue := s.rxQueue
    sendAnswers := s.sendAnswers
    inputs := s.inputs
    recurring := s.recurring
    bus := s.bus
    log := s.log }

/-- `enterAwait()` (rule R146). -/
def State.enterAwait (s : State) : State :=
  { s with state := .awaitingFlowControl, waitSeen := false, fcDeadline := s.now + s.nBs }

/-- `S.state <- Done; S.result <- 0` (rule R156). -/
def State.finish (s : State) : State := { s with state := .done, result := some .success }

/-- `discard()`: no register, flag or timer changes (rules R148, R149). -/
def State.discard (s : State) : State := { s with state := .awaitingFlowControl }

/-- `waitMore()` (rule R150). -/
def State.waitMore (s : State) : State :=
  { s with state := .awaitingFlowControl, waitSeen := true, fcDeadline := s.now + s.nBs }

/-- `overflow()` (rules R151, R183). -/
def State.overflow (s : State) : State := s.raiseError .flowControlOverflow (overflowStatus s.granted)

/-- `timeout()` (rules R153, R182). -/
def State.timeout (s : State) : State :=
  s.raiseError .flowControlTimeout (timeoutStatus s.granted s.waitSeen)

/-- `grant(lim, sep)` (rule R152). -/
def State.grant (s : State) (lim : BlockLimit) (sep : BitVec 17) : State :=
  { s with
    state := .sendingConsecutiveFrames
    bsUnlimited := match lim with
      | .unlimited => true
      | .limit _ => false
    bsRem := match lim with
      | .unlimited => s.bsRem
      | .limit n => n
    sepUs := sep
    granted := true }

/-- What `stepSF` does after its send (rule R144). -/
def State.afterSf (s : State) : State := ({ s with consumed := s.totalLen } : State).finish

/-- What `stepFF` does after its send (rule R145). -/
def State.afterFf (s : State) : State :=
  ({ s with consumed := BitVec.ofNat 12 Config.ffChunk } : State).enterAwait

/-- `nextAfterCF()`: the end-of-payload test comes first (rule R155). -/
def State.nextAfterCf (s : State) : State :=
  if s.consumed = s.totalLen then s.finish
  else if s.bsUnlimited = false ∧ s.bsRem = 0#8 then s.enterAwait
  else { s with state := .sendingConsecutiveFrames }

/-- `n`, the size of the next Consecutive Frame's chunk (rules R58, R154). -/
def State.chunkLen (s : State) : Nat := min Config.cfChunk (s.totalLen.toNat - s.consumed.toNat)

/-- The counters `stepCF` moves after its send (rules R154, R163, R164). -/
def State.counted (s : State) : State :=
  { s with
    seq := s.seq + 1#4
    consumed := s.consumed + BitVec.ofNat 12 s.chunkLen
    bsRem := if s.bsUnlimited then s.bsRem else s.bsRem - 1#8 }

/-- What `stepCF` does after its send (rule R154): the counters, then `nextAfterCF()`. -/
def State.afterCf (s : State) : State := s.counted.nextAfterCf

end Sys2Proof.Machine
end

