-- ==== Sys2Proof/Machine/Operands.lean ====
section
/-! DEFINITION. The operands of the emitting steps: `MemRead` and the frame the block builds in each sending state
(rules R28, R51, R144, R145, R154). The received frames' operands are read by the decoder; their meanings are in
Machine/FlowControl.lean. -/

namespace Sys2Proof.Machine

/-- `MemRead(addr, n)`, defined only for `n >= 1` and `addr + n <= S.total_len` (rules R10, R51). -/
def State.memRead (s : State) (addr n : Nat) : Except Stop (List Byte) :=
  if 1 ≤ n ∧ addr + n ≤ s.totalLen.toNat then
    match s.payload.readRange addr n with
    | some bs => .ok bs
    | none => .error (.fault (.payloadOutOfRange addr n))
  else .error (.fault (.payloadOutOfRange addr n))

/-- A codec result inside the block: a failed precondition has no meaning (rule R107). -/
def codecResult (r : Except CodecFailure (List Byte)) : Except Stop (List Byte) :=
  match r with
  | .ok d => .ok d
  | .error why => .error (.refusal (.codec why))

/-- `d` of `stepSF` (rule R144). -/
def State.builtSf (s : State) : Except Stop (List Byte) :=
  match s.memRead 0 s.totalLen.toNat with
  | .ok p => codecResult (encodeSingleFrame p)
  | .error e => .error e

/-- `d` of `stepFF` (rule R145). -/
def State.builtFf (s : State) : Except Stop (List Byte) :=
  match s.memRead 0 Config.ffChunk with
  | .ok c => codecResult (encodeFirstFrame s.totalLen.toNat c)
  | .error e => .error e

/-- `d` of `stepCF` (rule R154). -/
def State.builtCf (s : State) : Except Stop (List Byte) :=
  match s.memRead s.consumed.toNat s.chunkLen with
  | .ok c => codecResult (encodeConsecutiveFrame s.seq.toNat c)
  | .error e => .error e

/-- Go on with `k` if the frame at hand is the one the block builds; it never emits another. -/
def whenBuilt (built : Except Stop (List Byte)) (d : List Byte) (k : Result) : Result :=
  match built with
  | .error e => e.result
  | .ok own => if own = d then k else .refused .notTheFrameBuilt

/-- Go on if the block is in `AwaitingFlowControl`, the only state with an edge for a received frame (rule R140). -/
def State.whenAwaiting (s : State) (t : State) : Result :=
  if s.state = .awaitingFlowControl then .next t else .refused .noEdge

end Sys2Proof.Machine
end

