-- ==== Sys2Proof/Machine/Emit.lean ====
section
/-! DEFINITION. The emitted frames SF, FF and CF: the steps of the three sending states (rules R144, R145, R154). -/

namespace Sys2Proof.Machine

/-- SF: `stepSF` (rule R144). -/
def execSf (payload : List Byte) (s : State) : Result :=
  if s.state = .sendingSingleFrame then
    whenBuilt s.builtSf (encode (.sf payload)) (s.emit (encode (.sf payload)) .sendFailedSf State.afterSf)
  else .refused .noEdge

/-- FF: `stepFF` (rule R145). -/
def execFf (totalLength : BitVec 12) (firstChunk : List Byte) (s : State) : Result :=
  if s.state = .sendingFirstFrame then
    whenBuilt s.builtFf (encode (.ff totalLength firstChunk))
      (s.emit (encode (.ff totalLength firstChunk)) .sendFailedFf State.afterFf)
  else .refused .noEdge

/-- CF: `stepCF`, held while the pacing guard is false (rules R131, R154). -/
def execCf (sn : Nibble) (data : List Byte) (s : State) : Result :=
  if s.state = .sendingConsecutiveFrames then
    whenBuilt s.builtCf (encode (.cf sn data))
      (if s.pacingReady then s.emit (encode (.cf sn data)) (.sendFailedCf s.seq) State.afterCf
       else .next s.wait)
  else .refused .noEdge

end Sys2Proof.Machine
end

