-- ==== Sys2Proof/Machine/Receive.lean ====
section
/-! DEFINITION. The received frames: what `stepAwait` does with a frame `BusRecv` has delivered (rules R147 to
R152). The frame itself has been taken from the adapter when a meaning runs (Machine/Fetch.lean). -/

namespace Sys2Proof.Machine

/-- FC.CTS: the grant (rule R152). -/
def execFcCts (bs stMin : Byte) (_rest : List Byte) (s : State) : Result :=
  s.whenAwaiting (s.grant (blockLimit bs) (interpret stMin))

/-- FC.WAIT: the window is re-armed (rule R150). -/
def execFcWait (_bs _stMin : Byte) (_rest : List Byte) (s : State) : Result :=
  s.whenAwaiting s.waitMore

/-- FC.OVFL: the error FlowControlOverflow is taken (rule R151). -/
def execFcOvfl (_bs _stMin : Byte) (_rest : List Byte) (s : State) : Result :=
  s.whenAwaiting s.overflow

/-- FC.UNKNOWN, flow status 3: discarded (rule R149). -/
def execFcUnknown3 (_bs _stMin : Byte) (_rest : List Byte) (s : State) : Result :=
  s.whenAwaiting s.discard

/-- FC.UNKNOWN, flow status 4 to 7: discarded (rule R149). -/
def execFcUnknown4to7 (_f : BitVec 2) (_bs _stMin : Byte) (_rest : List Byte) (s : State) : Result :=
  s.whenAwaiting s.discard

/-- FC.UNKNOWN, flow status 8 to 15: discarded (rule R149). -/
def execFcUnknown8to15 (_f : BitVec 3) (_bs _stMin : Byte) (_rest : List Byte) (s : State) : Result :=
  s.whenAwaiting s.discard

/-- RX.NOTFC, type 0x0 or 0x1: discarded (rule R148). -/
def execRxType0to1 (_t : BitVec 1) (_low : Nibble) (_rest : List Byte) (s : State) : Result :=
  s.whenAwaiting s.discard

/-- RX.NOTFC, type 0x2: discarded (rule R148). -/
def execRxType2 (_low : Nibble) (_rest : List Byte) (s : State) : Result :=
  s.whenAwaiting s.discard

/-- RX.NOTFC, type 0x4 to 0x7: discarded (rule R148). -/
def execRxType4to7 (_t : BitVec 2) (_low : Nibble) (_rest : List Byte) (s : State) : Result :=
  s.whenAwaiting s.discard

/-- RX.NOTFC, type 0x8 to 0xF: discarded (rule R148). -/
def execRxType8to15 (_t : BitVec 3) (_low : Nibble) (_rest : List Byte) (s : State) : Result :=
  s.whenAwaiting s.discard

/-- RX.NOTFC, fewer than three bytes: discarded (rule R148). -/
def execRxShort (_data : List Byte) (s : State) : Result :=
  s.whenAwaiting s.discard

end Sys2Proof.Machine
end

