-- ==== Sys2Proof/Machine/Dispatch.lean ====
section
/-! DEFINITION. The meaning of each instruction, one arm per constructor of `Instr`. -/

namespace Sys2Proof.Machine

def exec (i : Instr) (s : State) : Host.Outcome State Fault Refusal :=
  match i with
  | .sf payload => Sys2Proof.Machine.execSf payload s
  | .ff totalLength firstChunk => Sys2Proof.Machine.execFf totalLength firstChunk s
  | .cf sn data => Sys2Proof.Machine.execCf sn data s
  | .fcCts bs stMin rest => Sys2Proof.Machine.execFcCts bs stMin rest s
  | .fcWait bs stMin rest => Sys2Proof.Machine.execFcWait bs stMin rest s
  | .fcOvfl bs stMin rest => Sys2Proof.Machine.execFcOvfl bs stMin rest s
  | .fcUnknown3 bs stMin rest => Sys2Proof.Machine.execFcUnknown3 bs stMin rest s
  | .fcUnknown4to7 f bs stMin rest => Sys2Proof.Machine.execFcUnknown4to7 f bs stMin rest s
  | .fcUnknown8to15 f bs stMin rest => Sys2Proof.Machine.execFcUnknown8to15 f bs stMin rest s
  | .rxType0to1 t low rest => Sys2Proof.Machine.execRxType0to1 t low rest s
  | .rxType2 low rest => Sys2Proof.Machine.execRxType2 low rest s
  | .rxType4to7 t low rest => Sys2Proof.Machine.execRxType4to7 t low rest s
  | .rxType8to15 t low rest => Sys2Proof.Machine.execRxType8to15 t low rest s
  | .rxShort data => Sys2Proof.Machine.execRxShort data s

end Sys2Proof.Machine
end

