-- ==== Sys2Proof/Machine/Fetch.lean ====
section
/-! DEFINITION. Where the block's next frame comes from, and one step of the block. There is no instruction memory
(rules R28, R54): in a sending state the frame is the one the block builds from its registers and the payload; in
AwaitingFlowControl it is the one `BusRecv` delivers; in the other states there is none. -/

namespace Sys2Proof.Machine

/-- What the block has to act on in a step. -/
inductive Fetched where
  /-- Nothing: the block waits (rules R189, R210). -/
  | waits
  /-- `BusRecv` has answered `None`. -/
  | timedOut (s : State)
  /-- A frame of this direction; for a received one the state after it was taken from the adapter. -/
  | frame (dir : Direction) (d : List Byte) (s : State)
  /-- The frame could not be built. -/
  | stopped (why : Stop)
  deriving DecidableEq, Repr

/-- A frame built by the block. -/
def fetchBuilt (built : Except Stop (List Byte)) (s : State) : Fetched :=
  match built with
  | .ok d => .frame .tx d s
  | .error why => .stopped why

/-- The next frame, by `S.state` (rules R27, R28). -/
def fetch (recvNone : Bool) (s : State) : Fetched :=
  match s.state with
  | .idle | .done | .error _ => .waits
  | .sendingSingleFrame => fetchBuilt s.builtSf s
  | .sendingFirstFrame => fetchBuilt s.builtFf s
  | .sendingConsecutiveFrames => fetchBuilt s.builtCf s
  | .awaitingFlowControl => match s.busRecv recvNone with
    | .pending => .waits
    | .timedOut t => .timedOut t
    | .frame d t => .frame .rx d t

/-- Decode a frame and run it. -/
def runFrame (dir : Direction) (d : List Byte) (s : State) : Result :=
  match decode dir d with
  | .ok i => exec i s
  | .error why => .refused (.undecodable why)

/-- One step of the block (rules R140, R167). -/
def blockStep (recvNone : Bool) (s : State) : Result :=
  match fetch recvNone s with
  | .waits => .next s.wait
  | .timedOut t => .next t.timeout
  | .frame dir d t => runFrame dir d t
  | .stopped why => why.result

/-- A received frame at the head of the adapter's queue, in an open wait window. -/
def State.placeReceived (s : State) (d : List Byte) : State :=
  { s with
    state := .awaitingFlowControl
    rxQueue := d :: s.rxQueue
    fcDeadline := max s.fcDeadline (s.now + 1) }

/-- The BusAdapter is ready to answer the next `BusSend`. -/
def State.withAnswer (s : State) : State :=
  { s with sendAnswers := if s.sendAnswers = [] then [{ result := .ok, took := 0 }] else s.sendAnswers }

/-- The registers and the payload from which the block builds this frame next; for a received frame, see
`State.placeReceived`. A Consecutive Frame numbered `sn` is placed as the first of that number (rule R160), a
First Frame before a payload whose other bytes are 0x00. -/
def State.place (s : State) (i : Instr) : State :=
  match i with
  | .sf p =>
      { s.withAnswer with
        state := .sendingSingleFrame, totalLen := BitVec.ofNat 12 p.length, consumed := 0#12
        len := p.length, payload := Memory.ofBytes p }
  | .ff l c =>
      { s.withAnswer with
        state := .sendingFirstFrame, totalLen := l, consumed := 0#12, seq := Config.seqInit
        len := l.toNat, payload := Memory.ofBytes (c ++ List.replicate (l.toNat - c.length) Config.pad) }
  | .cf sn data =>
      let k := if sn = 0#4 then 16 else sn.toNat
      let at0 := 6 + 7 * (k - 1)
      { s.withAnswer with
        state := .sendingConsecutiveFrames, totalLen := BitVec.ofNat 12 (at0 + data.length)
        consumed := BitVec.ofNat 12 at0, seq := sn, bsUnlimited := true, sepUs := 0#17, tLast := s.now
        granted := true, len := at0 + data.length
        payload := Memory.ofBytes (List.replicate at0 Config.pad ++ data) }
  | i => s.placeReceived (encode i)

end Sys2Proof.Machine
end

