-- ==== Sys2Proof/Machine/Step.lean ====
section
/-! DEFINITION. One step of the machine. The four agents of rule R13 act in it: the clock is read, frames reach the
adapter, and then the host acts or, if it does not, the block. -/

namespace Sys2Proof.Machine

/-- The step function. A host event takes the place of the block's own step. -/
def step (s : State) : Host.Outcome State Fault Refusal :=
  match s.nextInput.host with
  | some (.start cmd) => s.afterInput.start cmd
  | some .reset => .next s.afterInput.powerOn
  | none => blockStep s.nextInput.recvNone s.afterInput

/-- The state in which the next step runs the instruction of this opcode-table word, and nothing outside
happens first (log entry 15). A word the decoder turns away is placed as received bytes, for the step to refuse. -/
def State.withFetchWord (s : State) (nbits w : Nat) : State :=
  let placed := match decodeTableWord nbits w with
    | some i => s.place i
    | none => s.placeReceived (tableBytes nbits w)
  { placed with inputs := StepInput.quiet :: s.inputs }

end Sys2Proof.Machine
end

