-- ==== Sys2Proof/WellFormed.lean ====
section
/-! DEFINITION. Which terms of `Instr` are frames: the `condition` column of spec/opcode_table.json. Field widths
are in the types; lengths are checked here. -/

namespace Sys2Proof

/-- Trailing bytes of a frame whose first `k` bytes are named fields: all `dlc` of them fit the bus (rule R52). -/
def restFits (k : Nat) (rest : List Byte) : Bool :=
  decide (k + rest.length ≤ Config.frameLen)

/-- A received frame named by its byte 0 alone has at least two more bytes, else it is the short row
(opcode_table.json: `dlc < 3` takes precedence over every other `rx` row). -/
def typedRestFits (rest : List Byte) : Bool :=
  decide (Config.fcMinBytes ≤ 1 + rest.length) && restFits 1 rest

/-- The instruction satisfies its row's condition. -/
def Instr.wellFormed : Instr → Bool
  | .sf payload => decide (Config.minPayload ≤ payload.length) && decide (payload.length ≤ Config.sfMax)
  | .ff totalLength firstChunk => decide (8 ≤ totalLength.toNat) && decide (firstChunk.length = Config.ffChunk)
  | .cf _ data => decide (data.length = Config.cfChunk)
  | .fcCts _ _ rest | .fcWait _ _ rest | .fcOvfl _ _ rest => restFits 3 rest
  | .fcUnknown3 _ _ rest | .fcUnknown4to7 _ _ _ rest | .fcUnknown8to15 _ _ _ rest => restFits 3 rest
  | .rxType0to1 _ _ rest | .rxType2 _ rest => typedRestFits rest
  | .rxType4to7 _ _ rest | .rxType8to15 _ _ rest => typedRestFits rest
  | .rxShort data => decide (data.length < Config.fcMinBytes)

end Sys2Proof
end

