-- ==== Sys2Proof/Safety.lean ====
section
/-! DEFINITION. What counts as a safe run, in the terms the statements use: the invariant of rules R25, R26 and R45,
the state graph of rule R140, the frames a transfer must consist of (rules R55, R63, R160), the launch premises
of rule R217, and which registers a state still has a use for (rule R44). Nothing here is part of the machine. -/

namespace Sys2Proof.Machine

/-- The frames handed to `BusSend`, oldest first. -/
def sendsOf : List BusEvent → List (List Byte)
  | [] => []
  | .send _ _ d _ :: es => d :: sendsOf es
  | .recv _ _ _ _ :: es => sendsOf es

/-- Every emitted frame has exactly eight data bytes (rules R45, R70). -/
def BusEvent.full : BusEvent → Prop
  | .send _ _ d _ => d.length = Config.frameLen
  | .recv _ _ _ _ => True

/-- The block is between the First Frame and the end (rule R45). -/
def MState.midway (m : MState) : Prop := m = .awaitingFlowControl ∨ m = .sendingConsecutiveFrames

/-- The invariant of the machine (rules R24, R25, R26, R42, R45, R50, R52). -/
structure Inv (s : State) : Prop where
  /-- The payload space keeps its canonical form. -/
  payload_wf : s.payload.wf
  /-- The payload space is `payload[0 .. LEN-1]` (rule R50). -/
  payload_listed : s.payload.map Prod.fst = List.range s.len
  /-- Received frames have at most eight bytes (rule R52). -/
  queue_fits : ∀ d ∈ s.rxQueue, d.length ≤ Config.frameLen
  /-- So have those still to arrive. -/
  arrivals_fit : ∀ i ∈ s.inputs, ∀ d ∈ i.arrivals, d.length ≤ Config.frameLen
  /-- And those that recur. -/
  recurring_fit : ∀ i ∈ s.recurring, ∀ d ∈ i.arrivals, d.length ≤ Config.frameLen
  /-- "every emitted frame's data length ≤ 8 bytes" (this spec: exactly 8) (rule R45). -/
  sent_full : ∀ e ∈ s.bus, e.full
  /-- The last send lies in the past. -/
  last_past : s.tLast ≤ s.now
  /-- A wait window is never longer than `N_BS` (rules R42, R146, R150). -/
  window : s.state = .awaitingFlowControl → s.fcDeadline ≤ s.now + s.nBs
  /-- `S.result = None` exactly when `busy = 1` or no START has happened (rule R45). -/
  result_none : s.result = none ↔ s.busy = true ∨ s.state = .idle
  /-- `Done` is success (rule R156). -/
  result_done : s.state = .done → s.result = some .success
  /-- An error's code is one of its kind (rules R81, R187). -/
  result_error : ∀ k, s.state = .error k → ∃ st, s.result = some st ∧ st.kind = some k
  /-- `0 <= S.consumed <= S.total_len <= 4095` (rule R45). -/
  consumed_le : s.consumed.toNat ≤ s.totalLen.toNat
  /-- A running session has the payload's length (rules R21, R35). -/
  busy_len : s.busy = true → s.totalLen.toNat = s.len ∧ 1 ≤ s.len
  /-- "a Single Frame's payload length is 1..7" (rule R45). -/
  single : s.state = .sendingSingleFrame → s.len ≤ 7 ∧ s.consumed = 0#12
  /-- "a First Frame is used only when payload length is 8..4095" (rule R45). -/
  first : s.state = .sendingFirstFrame → 8 ≤ s.len ∧ s.consumed = 0#12 ∧ s.seq = 1#4
  /-- `6 <= S.consumed < S.total_len`, `S.consumed = 6 + 7k` and `S.seq = (1 + k) mod 16` (rule R45). -/
  midway : s.state.midway → 8 ≤ s.totalLen.toNat ∧ s.consumed.toNat < s.totalLen.toNat ∧
    ∃ k, s.consumed.toNat = 6 + 7 * k ∧ s.seq.toNat = (1 + k) % 16
  /-- `S.granted = 1`, and `S.bs_unlimited = 1` or `S.bs_rem >= 1` (rules R24, R45). -/
  countdown : s.state = .sendingConsecutiveFrames →
    s.granted = true ∧ (s.bsUnlimited = true ∨ 1 ≤ s.bsRem.toNat)
  /-- The separation time is one an STmin code names (rule R25). -/
  separation : ∃ c, s.sepUs = interpret c

/-- The edges of the block's own steps (rule R140), with the waits, which keep the state. -/
def blockEdge (a b : MState) : Bool :=
  a == b || match a, b with
    | .sendingSingleFrame, .done => true
    | .sendingFirstFrame, .awaitingFlowControl => true
    | .awaitingFlowControl, .sendingConsecutiveFrames => true
    | .awaitingFlowControl, .error .flowControlOverflow => true
    | .awaitingFlowControl, .error .flowControlTimeout => true
    | .sendingConsecutiveFrames, .awaitingFlowControl => true
    | .sendingConsecutiveFrames, .done => true
    | _, _ => false

/-- `N`, the number of Consecutive Frames: `ceil((LEN - 6) / 7)` (rule R160). -/
def cfCount (len : Nat) : Nat := (len - 6 + 6) / 7

/-- The k-th Consecutive Frame of a payload, k = 1, 2, … (rules R55, R63, R160). -/
def nthCf (p : List Byte) (k : Nat) : List Byte :=
  pad8 (BitVec.ofNat 8 (0x20 + k % 16) :: (p.drop (6 + 7 * (k - 1))).take 7)

/-- The frames a transfer of this payload consists of, in order (rules R63, R160): one Single Frame, or the First
Frame and then the Consecutive Frames. -/
def framesOf (p : List Byte) : List (List Byte) :=
  if p.length ≤ 7 then [pad8 (BitVec.ofNat 8 p.length :: p)]
  else (BitVec.ofNat 8 (0x10 + p.length / 256) :: BitVec.ofNat 8 (p.length % 256) :: p.take 6) ::
    (List.range (cfCount p.length)).map fun j => nthCf p (j + 1)

/-- How many of those frames have gone out when `consumed` payload bytes have (rules R22, R63). -/
def emittedCount (len consumed : Nat) : Nat :=
  if consumed = 0 then 0 else if len ≤ 7 then 1 else 1 + (consumed - 6 + 6) / 7

/-- The session carries the payload `p`, and since the calls `base` were made exactly the frames due have gone
out (rule R63). -/
def SentPrefix (base : List (List Byte)) (p : List Byte) (s : State) : Prop :=
  s.payload = Memory.ofBytes p ∧ s.totalLen.toNat = p.length ∧
    sendsOf s.bus = base ++ (framesOf p).take (emittedCount p.length s.consumed.toNat)

/-- The host does nothing in this step. -/
def hostQuiet (s : State) : Prop := s.nextInput.host = none

/-- The host's event, if any, is one the spec has a step for: `P_IDLE` and `P_LEN` of rule R217 hold. -/
def hostLegal (s : State) : Prop :=
  ∀ cmd, s.nextInput.host = some (.start cmd) → s.busy = false ∧ 1 ≤ cmd.payload.length

/-- The host never acts again: no START and no reset in any input still to come (`P_NO_RESET` of rule R217). -/
def hostSilent (s : State) : Prop :=
  (∀ i ∈ s.inputs, i.host = none) ∧ ∀ i ∈ s.recurring, i.host = none

/-- `P_FINITE_WAITS` of rule R217: the peer sends finitely many Wait frames, so none of those that recur is one. -/
def finiteWaits (s : State) : Prop := ∀ i ∈ s.recurring, ∀ d ∈ i.arrivals, decideFrame d ≠ .waitMore

/-- Frames arrive at a finite rate (rule R232): time passes before each recurring arrival. Where no frame recurs, this
and `finiteWaits` hold, which is `P_FINITE_FRAMES` of rule R217. -/
def finiteRate (s : State) : Prop := ∀ i ∈ s.recurring, i.arrivals ≠ [] → 1 ≤ i.elapsed

/-- An input in which the peer sends one Wait frame within `nBs` of the last input, and nothing else happens (rule
R225). -/
def waitsAgain (nBs : Nat) (i : StepInput) : Prop :=
  i.host = none ∧ i.recvNone = false ∧ i.elapsed ≤ nBs ∧
    ∃ bs st rest, i.arrivals = [0x31#8 :: bs :: st :: rest] ∧ rest.length ≤ 5

/-- What a failed send of this frame logs (rule R202). -/
def failureOf : Instr → Option LogEvent
  | .sf _ => some .sendFailedSf
  | .ff _ _ => some .sendFailedFf
  | .cf sn _ => some (.sendFailedCf sn)
  | _ => none

/-- The registers this state still has a use for agree (rule R44: "no transition reads an unspecified register");
the other agents' state and `STATUS` agree too. -/
structure SameLive (s t : State) : Prop where
  state : s.state = t.state
  result : s.result = t.result
  nBs : s.nBs = t.nBs
  now : s.now = t.now
  rxQueue : s.rxQueue = t.rxQueue
  sendAnswers : s.sendAnswers = t.sendAnswers
  inputs : s.inputs = t.inputs
  recurring : s.recurring = t.recurring
  bus : s.bus = t.bus
  log : s.log = t.log
  session : s.busy = true → s.totalLen = t.totalLen ∧ s.consumed = t.consumed ∧ s.seq = t.seq ∧
    s.granted = t.granted ∧ s.txId = t.txId ∧ s.fcId = t.fcId ∧ s.payload = t.payload
  window : s.state = .awaitingFlowControl → s.fcDeadline = t.fcDeadline ∧ s.waitSeen = t.waitSeen
  block : s.state = .sendingConsecutiveFrames → s.sepUs = t.sepUs ∧ s.tLast = t.tLast ∧
    s.bsUnlimited = t.bsUnlimited ∧ (s.bsUnlimited = false → s.bsRem = t.bsRem)
  lastSend : s.state = .awaitingFlowControl → s.tLast = t.tLast

end Sys2Proof.Machine
end

