-- ==== Sys2Proof/Certificates/Slice0/Obligations.lean ====
section
/-! DEFINITION. The statements about the model, for the provers. Each docstring names the rule of spec/ it formalises,
or says what of the model's own choices it rests on. -/

open Sys2Proof Sys2Proof.Machine

/-! ## Encoding -/

/-- A few words written out from the opcode table and the vectors V1, V15, V20, V70, V75, V76, V78, V79 and V84 of
spec/95 decode to the instructions they stand for. That a word which can be an emitted frame is read as one, and not as
a received frame (V82 has the bytes of V1), is the model's choice, log entry 14. -/
def Obligations.OpcodeWordsDecode : Prop :=
  decodeTableWord 64 0x0311223300000000 = some (.sf [0x11#8, 0x22#8, 0x33#8]) ∧
  decodeTableWord 64 0x1123DEADBEEF0001 =
    some (.ff 0x123#12 [0xDE#8, 0xAD#8, 0xBE#8, 0xEF#8, 0x00#8, 0x01#8]) ∧
  decodeTableWord 64 0x21060708090A0B0C =
    some (.cf 1#4 [0x06#8, 0x07#8, 0x08#8, 0x09#8, 0x0A#8, 0x0B#8, 0x0C#8]) ∧
  decodeTableWord 64 0x3003F30000000000 = some (.fcCts 0x03#8 0xF3#8 [0#8, 0#8, 0#8, 0#8, 0#8]) ∧
  decodeTableWord 24 0x31057F = some (.fcWait 0x05#8 0x7F#8 []) ∧
  decodeTableWord 24 0x320000 = some (.fcOvfl 0#8 0#8 []) ∧
  decodeTableWord 24 0x3F080A = some (.fcUnknown8to15 0b111#3 0x08#8 0x0A#8 []) ∧
  decodeTableWord 16 0x3000 = some (.rxShort [0x30#8, 0x00#8]) ∧
  decodeTableWord 24 0x400000 = some (.rxType4to7 0b00#2 0#4 [0#8, 0#8])

/-- Decoding what was encoded gives the well-formed instruction back (rules R72 to R78, R84, R89): no operand of
any row is dropped. -/
def Obligations.DecodeOfEncodeIsIdentity : Prop :=
  ∀ i : Instr, i.wellFormed = true → decode i.direction (encode i) = .ok i

/-- The other direction: bytes that decode are well-formed, of the direction asked for, and encode back to the same
bytes, so each frame has one meaning (rules R86, R91). -/
def Obligations.EncodeOfDecodeIsIdentity : Prop :=
  ∀ (dir : Direction) (d : List Byte) (i : Instr), decode dir d = .ok i →
    i.wellFormed = true ∧ i.direction = dir ∧ encode i = d

/-- The reception decoder is the procedure of rule R89, on every frame of 0 to 8 bytes. -/
def Obligations.ReceptionDecoderFollowsProcedure : Prop :=
  (∀ d : List Byte, d.length < 3 → decode .rx d = .ok (.rxShort d)) ∧
  ∀ (b0 bs st : Byte) (rest : List Byte), rest.length ≤ 5 →
    (b0.toNat / 16 ≠ 3 → ∃ i, decode .rx (b0 :: bs :: st :: rest) = .ok i ∧ i.mnemonic = .rxNotFc) ∧
    (b0.toNat = 0x30 → decode .rx (b0 :: bs :: st :: rest) = .ok (.fcCts bs st rest)) ∧
    (b0.toNat = 0x31 → decode .rx (b0 :: bs :: st :: rest) = .ok (.fcWait bs st rest)) ∧
    (b0.toNat = 0x32 → decode .rx (b0 :: bs :: st :: rest) = .ok (.fcOvfl bs st rest)) ∧
    (b0.toNat / 16 = 3 → 3 ≤ b0.toNat % 16 →
      ∃ i, decode .rx (b0 :: bs :: st :: rest) = .ok i ∧ i.mnemonic = .fcUnknown)

/-- Running the decoded frame in AwaitingFlowControl is the dispatch of rule R147 on the decision of rule R123. -/
def Obligations.ReceivedFrameActsAsDecided : Prop :=
  ∀ (d : List Byte) (i : Instr) (s : State), s.state = .awaitingFlowControl → decode .rx d = .ok i →
    exec i s = .next (match decideFrame d with
      | .ignore => s
      | .waitMore => s.waitMore
      | .abort => s.overflow
      | .grant lim sep => s.grant lim sep)

/-- Rule R105: the round-trip laws of the codec with the reference decoders of rule R104. -/
def Obligations.CodecRoundTrip : Prop :=
  (∀ (l : Nat) (c : List Byte), 8 ≤ l → l ≤ 4095 → c.length = 6 →
    ∃ d, encodeFirstFrame l c = .ok d ∧ decodeFirstFrame d = some (l, c)) ∧
  (∀ (sn : Nat) (c : List Byte), sn ≤ 15 → c.length ≤ 7 →
    ∃ d, encodeConsecutiveFrame sn c = .ok d ∧
      decodeConsecutiveFrame d = some (sn, c ++ List.replicate (7 - c.length) 0x00#8)) ∧
  (∀ p : List Byte, 1 ≤ p.length → p.length ≤ 7 →
    ∃ d, encodeSingleFrame p = .ok d ∧ decodeSingleFrame d = some p)

/-- Rule R106: the type nibble and the length field of each encoder's result, and that no emitted frame is a Flow
Control frame; and every result has eight bytes (rule R8). -/
def Obligations.EncodersGiveTheirTypes : Prop :=
  (∀ p : List Byte, 1 ≤ p.length → p.length ≤ 7 → ∃ b0 tail, encodeSingleFrame p = .ok (b0 :: tail) ∧
    b0.toNat / 16 = 0 ∧ b0.toNat % 16 = p.length ∧ tail.length = 7 ∧ decodeFlowControl (b0 :: tail) = none) ∧
  (∀ (l : Nat) (c : List Byte), 8 ≤ l → l ≤ 4095 → c.length = 6 →
    ∃ b0 b1 tail, encodeFirstFrame l c = .ok (b0 :: b1 :: tail) ∧ b0.toNat / 16 = 1 ∧
      b0.toNat % 16 * 256 + b1.toNat = l ∧ tail.length = 6 ∧ decodeFlowControl (b0 :: b1 :: tail) = none) ∧
  (∀ (sn : Nat) (c : List Byte), sn ≤ 15 → c.length ≤ 7 →
    ∃ b0 tail, encodeConsecutiveFrame sn c = .ok (b0 :: tail) ∧ b0.toNat / 16 = 2 ∧
      b0.toNat % 16 = sn ∧ tail.length = 7 ∧ decodeFlowControl (b0 :: tail) = none)

/-! ## One step -/

/-- When the host does nothing and the frame at hand decodes to `i`, the step is `exec i`: in a sending state on the
frame the block builds (rules R28, R144, R145, R154), in AwaitingFlowControl on the oldest frame the adapter
holds, which is consumed and recorded as the answer of `BusRecv(FCID, fc_deadline - now)` (rules R64, R147). -/
def Obligations.StepRunsDecodedInstruction : Prop :=
  ∀ (s : State) (i : Instr) (d : List Byte), hostQuiet s →
    (s.state = .sendingSingleFrame → s.afterInput.builtSf = .ok d → decode .tx d = .ok i →
      step s = exec i s.afterInput) ∧
    (s.state = .sendingFirstFrame → s.afterInput.builtFf = .ok d → decode .tx d = .ok i →
      step s = exec i s.afterInput) ∧
    (s.state = .sendingConsecutiveFrames → s.afterInput.builtCf = .ok d → decode .tx d = .ok i →
      step s = exec i s.afterInput) ∧
    ∀ rest, s.state = .awaitingFlowControl → s.rxQueue ++ s.nextInput.arrivals = d :: rest →
      s.nextInput.recvNone = false → s.now + s.nextInput.elapsed ≤ s.fcDeadline → decode .rx d = .ok i →
      step s = exec i { s.afterInput with
        rxQueue := rest
        bus := s.bus ++ [.recv (s.now + s.nextInput.elapsed) s.fcId
          (s.fcDeadline - (s.now + s.nextInput.elapsed)) (some d)] }

/-- Rule R143: START with a legal payload creates the session and chooses the path; the command registers and the
payload snapshot are latched. -/
def Obligations.StartCreatesSession : Prop :=
  ∀ (s : State) (cmd : StartCommand), s.nextInput.host = some (.start cmd) → s.busy = false →
    1 ≤ cmd.payload.length → cmd.payload.length ≤ 4095 →
    ∃ t, step s = .next t ∧
      t.totalLen.toNat = cmd.payload.length ∧ t.consumed = 0#12 ∧ t.seq = 1#4 ∧ t.bsUnlimited = true ∧
      t.sepUs = 0#17 ∧ t.granted = false ∧ t.waitSeen = false ∧ t.status = none ∧
      t.state = (if cmd.payload.length ≤ 7 then .sendingSingleFrame else .sendingFirstFrame) ∧
      t.txId = cmd.txId ∧ t.fcId = cmd.fcId ∧ t.verbose = cmd.verbose ∧ t.len = cmd.payload.length ∧
      ∀ a, t.payload.read a = cmd.payload[a]?

/-- The frame of START: the parameter registers, the bus, the trace and the adapter stay as they were. That `S.bs_rem`,
`fc_deadline` and `t_last` keep their values too, where rule R44 calls them unspecified, is the model's choice, log
entry 3. -/
def Obligations.StartWritesNothingElse : Prop :=
  ∀ (s : State) (cmd : StartCommand), s.nextInput.host = some (.start cmd) → s.busy = false →
    1 ≤ cmd.payload.length → cmd.payload.length ≤ 4095 →
    ∃ t, step s = .next t ∧
      t = { s.afterInput with
        state := t.state, totalLen := t.totalLen, consumed := t.consumed, seq := t.seq
        bsUnlimited := t.bsUnlimited, sepUs := t.sepUs, granted := t.granted, waitSeen := t.waitSeen
        result := t.result, txId := t.txId, fcId := t.fcId, verbose := t.verbose, len := t.len
        payload := t.payload }

/-- Rule R142: a payload of more than 4095 bytes is answered with status 2 and nothing else happens: no call on the
bus, no trace, no other register. -/
def Obligations.OverlongStartGivesStatusTwo : Prop :=
  ∀ (s : State) (cmd : StartCommand), s.nextInput.host = some (.start cmd) → s.busy = false →
    4095 < cmd.payload.length →
    ∃ t, step s = .next t ∧ t.status = some 2#3 ∧ t.state = .error .payloadTooLong ∧
      t = { s.afterInput with state := t.state, result := t.result }

/-- Rule R141, the two refusals: START while `busy`, and START with an empty payload (the spec's decisions D11 and D26;
that a refusal ends the run is log entry 12). -/
def Obligations.StartRefusedWhenBusyOrEmpty : Prop :=
  ∀ (s : State) (cmd : StartCommand), s.nextInput.host = some (.start cmd) →
    (s.busy = true → step s = .refused .startWhileBusy) ∧
    (s.busy = false → cmd.payload = [] → step s = .refused .startEmptyPayload)

/-- Rules R210 and R212: a hardware reset, in any state, gives `Idle`, no status and the default parameters, emits
nothing, and leaves the other agents' state alone. (That the block as hardware has a reset is the spec's decision
D13.) -/
def Obligations.ResetEventGivesPowerOnState : Prop :=
  ∀ s : State, s.nextInput.host = some .reset →
    ∃ t, step s = .next t ∧ t.state = .idle ∧ t.status = none ∧ t.nBs = 1000000 ∧ t.sendTimeout = 100000 ∧
      t.bus = s.bus ∧ t.log = s.log ∧ t.sendAnswers = s.sendAnswers ∧ t.inputs = s.inputs.tail ∧
      (∀ i, i ∈ t.recurring ↔ i ∈ s.recurring) ∧
      t.rxQueue = s.rxQueue ++ s.nextInput.arrivals ∧ t.now = s.now + s.nextInput.elapsed

/-! ## Emitting -/

/-- Rule R144: the Single Frame goes out with the payload, whatever the answer, and the session is `Done` with status
0. Completion of SF; every other field is unchanged. -/
def Obligations.SingleFrameIsSent : Prop :=
  ∀ (s : State) (p : List Byte) (a : SendAnswer) (rest : List SendAnswer),
    s.state = .sendingSingleFrame → 1 ≤ p.length → p.length ≤ 7 → s.totalLen.toNat = p.length →
    (∀ k, k < p.length → s.payload.read k = p[k]?) → s.sendAnswers = a :: rest →
    exec (.sf p) s = .next { s with
      state := .done
      result := some .success
      consumed := s.totalLen
      now := s.now + a.took
      tLast := s.now + a.took
      sendAnswers := rest
      bus := s.bus ++ [.send s.now s.txId
        (BitVec.ofNat 8 p.length :: p ++ List.replicate (7 - p.length) 0x00#8) a.result]
      log := s.log ++ if a.result = .sendFailed then [.sendFailedSf] else [] }

/-- Rules R145 and R146: the First Frame goes out with the total length and the first six bytes, and the wait window
opens at the return of the send (that instant is the spec's decision D18). Completion of FF; every other field is
unchanged. -/
def Obligations.FirstFrameIsSent : Prop :=
  ∀ (s : State) (chunk : List Byte) (a : SendAnswer) (rest : List SendAnswer),
    s.state = .sendingFirstFrame → 8 ≤ s.totalLen.toNat → chunk.length = 6 →
    (∀ k, k < 6 → s.payload.read k = chunk[k]?) → s.sendAnswers = a :: rest →
    exec (.ff s.totalLen chunk) s = .next { s with
      state := .awaitingFlowControl
      consumed := 6#12
      waitSeen := false
      fcDeadline := s.now + a.took + s.nBs
      now := s.now + a.took
      tLast := s.now + a.took
      sendAnswers := rest
      bus := s.bus ++ [.send s.now s.txId (BitVec.ofNat 8 (0x10 + s.totalLen.toNat / 256) ::
        BitVec.ofNat 8 (s.totalLen.toNat % 256) :: chunk) a.result]
      log := s.log ++ if a.result = .sendFailed then [.sendFailedFf] else [] }

/-- Rules R154 and R155: with the pacing guard true the Consecutive Frame goes out with the old sequence number and
the next chunk; then the counters, and then `Done` if no byte remains, else AwaitingFlowControl if a finite block
is used up, else the next frame (the window's and the gap's instants are the spec's decisions D17, D18). Completion of
CF; every other field is unchanged. -/
def Obligations.ConsecutiveFrameIsSent : Prop :=
  ∀ (s : State) (chunk : List Byte) (a : SendAnswer) (rest : List SendAnswer),
    s.state = .sendingConsecutiveFrames → s.consumed.toNat < s.totalLen.toNat →
    chunk.length = min 7 (s.totalLen.toNat - s.consumed.toNat) →
    (∀ k, k < chunk.length → s.payload.read (s.consumed.toNat + k) = chunk[k]?) →
    s.tLast + s.sepUs.toNat ≤ s.now → s.sendAnswers = a :: rest →
    ∃ t, exec (.cf s.seq (chunk ++ List.replicate (7 - chunk.length) 0x00#8)) s = .next t ∧
      t.seq.toNat = (s.seq.toNat + 1) % 16 ∧
      t.consumed.toNat = s.consumed.toNat + chunk.length ∧
      (s.bsUnlimited = true → t.bsRem = s.bsRem) ∧
      (s.bsUnlimited = false → 1 ≤ s.bsRem.toNat → t.bsRem.toNat = s.bsRem.toNat - 1) ∧
      t.now = s.now + a.took ∧ t.tLast = s.now + a.took ∧ t.sendAnswers = rest ∧
      t.bus = s.bus ++ [.send s.now s.txId (BitVec.ofNat 8 (0x20 + s.seq.toNat) ::
        chunk ++ List.replicate (7 - chunk.length) 0x00#8) a.result] ∧
      t.log = s.log ++ (if a.result = .sendFailed then [.sendFailedCf s.seq] else []) ∧
      (if s.consumed.toNat + chunk.length = s.totalLen.toNat then
        t.state = .done ∧ t.status = some 0#3 ∧ t.waitSeen = s.waitSeen ∧ t.fcDeadline = s.fcDeadline
      else if s.bsUnlimited = false ∧ s.bsRem.toNat = 1 then
        t.state = .awaitingFlowControl ∧ t.result = s.result ∧ t.waitSeen = false ∧
          t.fcDeadline = s.now + a.took + s.nBs
      else
        t.state = .sendingConsecutiveFrames ∧ t.result = s.result ∧ t.waitSeen = s.waitSeen ∧
          t.fcDeadline = s.fcDeadline) ∧
      t = { s with
        state := t.state, result := t.result, seq := t.seq, consumed := t.consumed, bsRem := t.bsRem
        waitSeen := t.waitSeen, fcDeadline := t.fcDeadline, now := t.now, tLast := t.tLast
        sendAnswers := t.sendAnswers, bus := t.bus, log := t.log }

/-- Rule R131, the guard: before `t_last + S.sep_us` the Consecutive Frame is not sent and no register changes. (That
the clock moves by one unit in such a step is the model's choice, log entry 5.) -/
def Obligations.PacingGuardHoldsConsecutiveFrame : Prop :=
  ∀ (s : State) (sn : Nibble) (data : List Byte), s.state = .sendingConsecutiveFrames →
    s.builtCf = .ok (encode (.cf sn data)) → s.now < s.tLast + s.sepUs.toNat →
    ∃ t, exec (.cf sn data) s = .next t ∧ s.now ≤ t.now ∧ t = { s with now := t.now }

/-- A `BusSend` that has no answer yet holds the block: nothing is recorded and no register changes. (Rule R217 lists
the answer as premise `P_FAIR`; showing the unanswered call as a wait is the model's choice, log entry 6.) -/
def Obligations.UnansweredSendIsHeld : Prop :=
  ∀ (s : State) (d : List Byte), s.sendAnswers = [] →
    (s.state = .sendingSingleFrame → ∀ p, s.builtSf = .ok (encode (.sf p)) →
      ∃ t, exec (.sf p) s = .next t ∧ t = { s with now := t.now }) ∧
    (s.state = .sendingFirstFrame → ∀ l c, s.builtFf = .ok (encode (.ff l c)) →
      ∃ t, exec (.ff l c) s = .next t ∧ t = { s with now := t.now }) ∧
    (s.state = .sendingConsecutiveFrames → ∀ sn, s.builtCf = .ok (encode (.cf sn d)) →
      ∃ t, exec (.cf sn d) s = .next t ∧ t = { s with now := t.now })

/-- Rule R157: the answer `SendFailed` causes one `Log` event and nothing else: every register is as for `Ok`, and the
call stands in the record with its answer (that the event is made whatever `VERBOSE` says is the spec's decision D20;
the record is the model's, log entry 9). -/
def Obligations.SendFailureOnlyLogs : Prop :=
  ∀ (i : Instr) (s t : State) (took : Nat) (rest : List SendAnswer), i.direction = .tx →
    s.sendAnswers = { result := .ok, took := took } :: rest → exec i s = .next t → t.bus ≠ s.bus →
    ∃ d e, failureOf i = some e ∧ t.log = s.log ∧ t.bus = s.bus ++ [.send s.now s.txId d .ok] ∧
      exec i { s with sendAnswers := { result := .sendFailed, took := took } :: rest } =
        .next { t with
          log := s.log ++ [e]
          bus := s.bus ++ [.send s.now s.txId d .sendFailed] }

/-! ## Receiving -/

/-- Rules R152, R121 and R122: the grant stores the block size and the separation time of its STmin code, reserved
codes giving 0. Completion of FC.CTS; every other field is unchanged. -/
def Obligations.ClearToSendGrants : Prop :=
  ∀ (s : State) (bs st : Byte) (rest : List Byte), s.state = .awaitingFlowControl →
    ∃ t, exec (.fcCts bs st rest) s = .next t ∧
      t.state = .sendingConsecutiveFrames ∧ t.granted = true ∧
      (bs.toNat = 0 → t.bsUnlimited = true ∧ t.bsRem = s.bsRem) ∧
      (1 ≤ bs.toNat → t.bsUnlimited = false ∧ t.bsRem = bs) ∧
      (st.toNat ≤ 0x7F → t.sepUs.toNat = st.toNat * 1000) ∧
      (0x80 ≤ st.toNat → st.toNat ≤ 0xF0 → t.sepUs.toNat = 0) ∧
      (0xF1 ≤ st.toNat → st.toNat ≤ 0xF9 → t.sepUs.toNat = (st.toNat - 0xF0) * 100) ∧
      (0xFA ≤ st.toNat → t.sepUs.toNat = 0) ∧
      t = { s with
        state := t.state, granted := t.granted, bsUnlimited := t.bsUnlimited, bsRem := t.bsRem
        sepUs := t.sepUs }

/-- Rule R150: a Wait frame sets `S.wait_seen` and re-arms the window. Completion of FC.WAIT; `BS` and `STmin` are
ignored and every other field is unchanged. -/
def Obligations.WaitRearmsTheWindow : Prop :=
  ∀ (s : State) (bs st : Byte) (rest : List Byte), s.state = .awaitingFlowControl →
    exec (.fcWait bs st rest) s = .next { s with waitSeen := true, fcDeadline := s.now + s.nBs }

/-- Rules R151, R183 and R191: an Overflow frame takes the error FlowControlOverflow with status 4 before the first
grant and 6 after it, whatever `S.wait_seen` (the spec's decision D10). Completion of FC.OVFL; nothing else is saved
or written. -/
def Obligations.OverflowAborts : Prop :=
  ∀ (s : State) (bs st : Byte) (rest : List Byte), s.state = .awaitingFlowControl →
    ∃ t, exec (.fcOvfl bs st rest) s = .next t ∧ t.state = .error .flowControlOverflow ∧
      t.status = some (if s.granted then 6#3 else 4#3) ∧ t = { s with state := t.state, result := t.result }

/-- Rule R149: a Flow Control frame with status 3 to 15 changes nothing: the window is not re-armed and `S.wait_seen`
is not set. Completion of the three rows of FC.UNKNOWN. -/
def Obligations.UnknownStatusIsDiscarded : Prop :=
  ∀ (s : State) (bs st : Byte) (rest : List Byte), s.state = .awaitingFlowControl →
    exec (.fcUnknown3 bs st rest) s = .next s ∧
    (∀ f, exec (.fcUnknown4to7 f bs st rest) s = .next s) ∧
    (∀ f, exec (.fcUnknown8to15 f bs st rest) s = .next s)

/-- Rule R148: a received frame that is not Flow Control changes nothing. Completion of the five rows of RX.NOTFC. -/
def Obligations.NotFlowControlIsDiscarded : Prop :=
  ∀ (s : State) (low : Nibble) (rest : List Byte), s.state = .awaitingFlowControl →
    (∀ t, exec (.rxType0to1 t low rest) s = .next s) ∧
    exec (.rxType2 low rest) s = .next s ∧
    (∀ t, exec (.rxType4to7 t low rest) s = .next s) ∧
    (∀ t, exec (.rxType8to15 t low rest) s = .next s) ∧
    exec (.rxShort rest) s = .next s

/-- Rule R140, "There is no other edge": outside its state a frame has no step. -/
def Obligations.FramesNeedTheirState : Prop :=
  ∀ s : State,
    (s.state ≠ .sendingSingleFrame → ∀ p, exec (.sf p) s = .refused .noEdge) ∧
    (s.state ≠ .sendingFirstFrame → ∀ l c, exec (.ff l c) s = .refused .noEdge) ∧
    (s.state ≠ .sendingConsecutiveFrames → ∀ sn c, exec (.cf sn c) s = .refused .noEdge) ∧
    (s.state ≠ .awaitingFlowControl → ∀ i, i.direction = .rx → exec i s = .refused .noEdge)

/-- Rules R153, R182 and R191: whenever `BusRecv` answers `None`, the step takes the error FlowControlTimeout with
status 3 before the first grant, else 7 after a Wait of this episode, else 5 (the choice by the two flags is the spec's
decisions D9 and D10). The answer is `None` after the deadline whatever the queue holds, at the deadline when no frame is
there, and at any reading when the adapter says so; that it may say so before the deadline, and how its answer is given
to the model, is log entry 7. A frame in the queue stays there. -/
def Obligations.TimeoutRaisesItsStatus : Prop :=
  ∀ s : State, hostQuiet s → s.state = .awaitingFlowControl →
    (s.nextInput.recvNone = true ∨ s.fcDeadline < s.now + s.nextInput.elapsed ∨
      (s.rxQueue ++ s.nextInput.arrivals = [] ∧ s.fcDeadline ≤ s.now + s.nextInput.elapsed)) →
    ∃ t, step s = .next t ∧ t.state = .error .flowControlTimeout ∧
      t.status = some (if s.granted = false then 3#3 else if s.waitSeen = true then 7#3 else 5#3) ∧
      t = { s.afterInput with
        state := t.state
        result := t.result
        bus := s.bus ++ [.recv (s.now + s.nextInput.elapsed) s.fcId
          (s.fcDeadline - (s.now + s.nextInput.elapsed)) none] }

/-- Rule R147, the suspension: before the deadline, with no frame there and no early `None`, the block stays inside
`BusRecv` and no register changes. (The clock's move in such a step is the model's choice, log entry 5.) -/
def Obligations.OpenWindowWaits : Prop :=
  ∀ s : State, hostQuiet s → s.state = .awaitingFlowControl → s.nextInput.recvNone = false →
    s.rxQueue ++ s.nextInput.arrivals = [] → s.now + s.nextInput.elapsed < s.fcDeadline →
    ∃ t, step s = .next t ∧ s.now ≤ t.now ∧ t = { s.afterInput with now := t.now }

/-- Rule R194: at `now = fc_deadline` with a frame there, the adapter's answer decides, and the model has a step for
either (the spec's decision D19; how the answer is given to the model is log entry 7). -/
def Obligations.DeadlineTieAdmitsBoth : Prop :=
  ∀ (s : State) (inp : StepInput) (rest : List StepInput) (d : List Byte) (q : List (List Byte)),
    s.state = .awaitingFlowControl → s.inputs = inp :: rest → inp.host = none →
    s.rxQueue ++ inp.arrivals = d :: q → d.length ≤ 8 → s.now + inp.elapsed = s.fcDeadline →
    (∃ t, step { s with inputs := { inp with recvNone := false } :: rest } = .next t ∧
      t.bus = s.bus ++ [.recv s.fcDeadline s.fcId 0 (some d)] ∧ t.rxQueue = q) ∧
    (∃ t, step { s with inputs := { inp with recvNone := true } :: rest } = .next t ∧
      t.bus = s.bus ++ [.recv s.fcDeadline s.fcId 0 none] ∧ t.rxQueue = d :: q ∧
      t.state = .error .flowControlTimeout)

/-! ## Frames -/

/-- What SF, FF and CF leave unchanged whenever they answer a next state: no payload byte, no parameter, no flag but
those rules R144 to R146, R154 and R155 name. -/
def Obligations.FrameOfEmittingInstructions : Prop :=
  ∀ (i : Instr) (s t : State), i.direction = .tx → exec i s = .next t →
    (∀ a, t.payload.read a = s.payload.read a) ∧
    t.totalLen = s.totalLen ∧ t.bsUnlimited = s.bsUnlimited ∧ t.sepUs = s.sepUs ∧ t.granted = s.granted ∧
    t.txId = s.txId ∧ t.fcId = s.fcId ∧ t.verbose = s.verbose ∧ t.len = s.len ∧ t.nBs = s.nBs ∧
    t.sendTimeout = s.sendTimeout ∧ t.rxQueue = s.rxQueue ∧ t.inputs = s.inputs ∧
    t.recurring = s.recurring ∧
    (i.mnemonic ≠ .cf → t.seq = s.seq ∧ t.bsRem = s.bsRem) ∧
    (s.bsUnlimited = true → t.bsRem = s.bsRem) ∧
    (t.state ≠ .done → t.result = s.result) ∧
    (t.state ≠ .awaitingFlowControl → t.waitSeen = s.waitSeen ∧ t.fcDeadline = s.fcDeadline)

/-- What the received frames leave unchanged: FC.CTS writes only the grant's registers, FC.WAIT only `S.wait_seen` and
the deadline, FC.OVFL only the state and the result, and a discarded frame nothing (rules R148 to R152). -/
def Obligations.FrameOfReceivedInstructions : Prop :=
  ∀ (i : Instr) (s t : State), i.direction = .rx → exec i s = .next t →
    (∀ a, t.payload.read a = s.payload.read a) ∧
    t.totalLen = s.totalLen ∧ t.consumed = s.consumed ∧ t.seq = s.seq ∧ t.txId = s.txId ∧ t.fcId = s.fcId ∧
    t.verbose = s.verbose ∧ t.len = s.len ∧ t.nBs = s.nBs ∧ t.sendTimeout = s.sendTimeout ∧
    t.tLast = s.tLast ∧ t.now = s.now ∧ t.rxQueue = s.rxQueue ∧ t.sendAnswers = s.sendAnswers ∧
    t.inputs = s.inputs ∧ t.recurring = s.recurring ∧ t.bus = s.bus ∧ t.log = s.log ∧
    (i.mnemonic ≠ .fcCts → t.bsUnlimited = s.bsUnlimited ∧ t.bsRem = s.bsRem ∧ t.sepUs = s.sepUs ∧
      t.granted = s.granted) ∧
    (i.mnemonic ≠ .fcWait → t.waitSeen = s.waitSeen ∧ t.fcDeadline = s.fcDeadline) ∧
    (i.mnemonic ≠ .fcOvfl → t.result = s.result) ∧
    (i.mnemonic = .fcUnknown ∨ i.mnemonic = .rxNotFc → t = s)

/-- Rules R28 and R195: without a host event, `Idle`, `Done` and `Error(*)` are left by nothing; a step there moves
the clock and the adapter's queue only. (The clock's move is the model's choice, log entry 5.) -/
def Obligations.TerminalStatesOnlyWait : Prop :=
  ∀ s : State, hostQuiet s → s.busy = false →
    ∃ t, step s = .next t ∧ s.now ≤ t.now ∧ t = { s.afterInput with now := t.now }

/-! ## The whole machine -/

/-- The invariant holds right after power-on. (The reset values of the registers rule R44 leaves unspecified are the
model's choice, log entry 1.) -/
def Obligations.ResetMeetsInvariant : Prop := Inv State.reset

/-- Every step keeps the invariant of rule R45 and of the payload memory, from every state that meets it. -/
def Obligations.StepKeepsInvariant : Prop :=
  ∀ s t : State, Inv s → step s = .next t → Inv t

/-- Rule R167, totality: from every state that meets the invariant, and for every input the spec has a step for, the
machine answers a next state; so no fault and no refusal of the model is reached there (rules R51, R107). -/
def Obligations.GoodStatesNeverStop : Prop :=
  ∀ s : State, Inv s → hostLegal s → ∃ t, step s = .next t

/-- Rule R140, "There is no other edge": a step of the block takes an edge of the table or stays, so none leads from a
sending state to an error; START leads where its length says; and a hardware reset (rules R210 and R212, the spec's
decision D13, log entry 11), whose edge the table does not list, leads to `Idle`. -/
def Obligations.NoOtherEdge : Prop :=
  ∀ s t : State, step s = .next t →
    (hostQuiet s → blockEdge s.state t.state = true) ∧
    (∀ cmd, s.nextInput.host = some (.start cmd) → s.busy = false ∧
      ((4095 < cmd.payload.length ∧ t.state = .error .payloadTooLong) ∨
        (1 ≤ cmd.payload.length ∧ cmd.payload.length ≤ 7 ∧ t.state = .sendingSingleFrame) ∨
        (8 ≤ cmd.payload.length ∧ cmd.payload.length ≤ 4095 ∧ t.state = .sendingFirstFrame))) ∧
    (s.nextInput.host = some .reset → t.state = .idle)

/-- Rules R21, R34, R54 and R68: no step of the block changes a payload byte, the total length, an identifier or a
parameter register; only START and a reset do. -/
def Obligations.SessionParametersAreFixed : Prop :=
  ∀ s t : State, hostQuiet s → step s = .next t →
    (∀ a, t.payload.read a = s.payload.read a) ∧ t.totalLen = s.totalLen ∧ t.len = s.len ∧
    t.txId = s.txId ∧ t.fcId = s.fcId ∧ t.verbose = s.verbose ∧ t.nBs = s.nBs ∧
    t.sendTimeout = s.sendTimeout

/-- Rules R52, R65 and R66: a step makes at most one call on the bus; a send carries `TXID` and eight bytes and is made
in a sending state only, a receive carries `FCID` and the rest of the window and is made in AwaitingFlowControl
only; so no frame is sent while waiting. -/
def Obligations.BusDiscipline : Prop :=
  ∀ s t : State, step s = .next t →
    t.bus = s.bus ∨
    (∃ d r, t.bus = s.bus ++ [.send (s.now + s.nextInput.elapsed) s.txId d r] ∧ d.length = 8 ∧
      (s.state = .sendingSingleFrame ∨ s.state = .sendingFirstFrame ∨
        s.state = .sendingConsecutiveFrames)) ∨
    (∃ a, t.bus = s.bus ++ [.recv (s.now + s.nextInput.elapsed) s.fcId
        (s.fcDeadline - (s.now + s.nextInput.elapsed)) a] ∧ s.state = .awaitingFlowControl)

/-- Rule R130: `now` never decreases. -/
def Obligations.ClockNeverGoesBack : Prop :=
  ∀ s t : State, step s = .next t → s.now ≤ t.now

/-- Rule R131, the guarantee: a Consecutive Frame's `BusSend` is called at least the separation time after the return
of the send before it, and `t_last` then moves to its own return (rule R133). -/
def Obligations.PacingGapIsHonoured : Prop :=
  ∀ s t : State, hostQuiet s → s.state = .sendingConsecutiveFrames → step s = .next t → t.bus ≠ s.bus →
    ∃ instant d r, t.bus = s.bus ++ [.send instant s.txId d r] ∧
      s.tLast + s.sepUs.toNat ≤ instant ∧ instant ≤ t.tLast ∧ t.tLast = t.now

/-- Rules R55 and R63: as an invariant of every step without a host event, the frames sent since the session began are
exactly the first of `SF`, or of `FF, CF_1, …, CF_N`, as many as the consumed bytes are due; none is skipped,
repeated or reordered. -/
def Obligations.FramesGoOutInOrder : Prop :=
  ∀ (base : List (List Byte)) (p : List Byte) (s t : State), Inv s → SentPrefix base p s → hostQuiet s →
    step s = .next t → SentPrefix base p t

/-- The same from its beginning: a START with a legal payload has sent nothing yet. -/
def Obligations.StartBeginsTheFrameSequence : Prop :=
  ∀ (s : State) (cmd : StartCommand), s.nextInput.host = some (.start cmd) → s.busy = false →
    1 ≤ cmd.payload.length → cmd.payload.length ≤ 4095 →
    ∃ t, step s = .next t ∧ SentPrefix (sendsOf s.bus) cmd.payload t

/-- The block-size countdown (rules R24, R155; §8 "sends exactly 3 Consecutive Frames, then — if payload remains —
re-enters the awaiting-Flow-Control state"): with `n` frames granted and more than `7n` bytes left, the block sends
exactly `n` Consecutive Frames, in no other state meanwhile, and then awaits a grant. Nothing outside happens but
the answers of the sends. (That the pacing wait ends rests on the clock's one unit per suspended step, log entry 5.) -/
def Obligations.BlockEndsAfterItsFrames : Prop :=
  ∀ (s : State) (n : Nat), Inv s → s.state = .sendingConsecutiveFrames → s.bsUnlimited = false →
    s.bsRem.toNat = n → s.consumed.toNat + 7 * n < s.totalLen.toNat → s.inputs = [] →
    s.recurring = [] → n ≤ s.sendAnswers.length →
    ∃ k t, core.run k s = .next t ∧ t.state = .awaitingFlowControl ∧ t.bsRem = 0#8 ∧
      (sendsOf t.bus).length = (sendsOf s.bus).length + n ∧
      t.consumed.toNat = s.consumed.toNat + 7 * n ∧
      ∀ j, j < k → ∃ u, core.run j s = .next u ∧ u.state = .sendingConsecutiveFrames

/-- Rule R160: a transfer of 8 to 4095 bytes under one unlimited grant, whatever its STmin code and whatever the
answers of the sends, ends with status 0 after exactly the frames `FF, CF_1, …, CF_N`. (That the pacing wait ends
rests on log entry 5.) -/
def Obligations.UnlimitedTransferCompletes : Prop :=
  ∀ (s : State) (inp : StepInput) (cmd : StartCommand) (st : Byte) (tail : List Byte)
    (more : List (List Byte)),
    Inv s → s.busy = false → s.inputs = [inp] → s.recurring = [] → inp.host = some (.start cmd) →
    8 ≤ cmd.payload.length → cmd.payload.length ≤ 4095 →
    s.rxQueue ++ inp.arrivals = (0x30#8 :: 0x00#8 :: st :: tail) :: more →
    1 + cfCount cmd.payload.length ≤ s.sendAnswers.length →
    ∃ k t, core.run k s = .next t ∧ t.state = .done ∧ t.status = some 0#3 ∧
      sendsOf t.bus = sendsOf s.bus ++ framesOf cmd.payload ∧ t.rxQueue = more

/-- Rules R143, R144 and R106: a payload of 1 to 7 bytes goes out as one Single Frame, in the step after START, with
status 0, and the adapter's queue is left untouched. -/
def Obligations.SingleFrameSession : Prop :=
  ∀ (s : State) (inp : StepInput) (cmd : StartCommand) (a : SendAnswer) (rest : List SendAnswer),
    s.busy = false → s.inputs = [inp] → s.recurring = [] → inp.host = some (.start cmd) →
    1 ≤ cmd.payload.length → cmd.payload.length ≤ 7 → s.sendAnswers = a :: rest →
    ∃ t, core.run 2 s = .next t ∧ t.state = .done ∧ t.status = some 0#3 ∧
      sendsOf t.bus = sendsOf s.bus ++ framesOf cmd.payload ∧ (framesOf cmd.payload).length = 1 ∧
      t.rxQueue = s.rxQueue ++ inp.arrivals

/-- The wait is bounded: with no frame and no host event the window runs out and the error is taken, not earlier than
the deadline. (The number of steps rests on the clock's one unit per suspended step, log entry 5.) -/
def Obligations.TimeoutArrivesInTime : Prop :=
  ∀ s : State, s.state = .awaitingFlowControl → s.rxQueue = [] → s.inputs = [] → s.recurring = [] →
    (∃ t, core.run (s.fcDeadline - s.now + 1) s = .next t ∧ t.state = .error .flowControlTimeout ∧
      s.fcDeadline ≤ t.now) ∧
    ∀ j, j ≤ s.fcDeadline - s.now → ∃ u, core.run j s = .next u ∧ u.state = .awaitingFlowControl

/-- Rule R232, with the premises of rule R217: every session ends, in `Done` or an error, when the host leaves it alone
(`P_NO_RESET`), every `BusSend` is answered (`P_FAIR`), the peer sends finitely many Wait frames (`P_FINITE_WAITS`) and
frames arrive at a finite rate. `P_FINITE_FRAMES`, where no frame recurs, is a case of the last two. (The spec's decision
D25; that the clock moves in a suspended step is log entry 5, that an endless outside is a recurring one log entry 4.) -/
def Obligations.EverySessionEnds : Prop :=
  ∀ s : State, Inv s → s.busy = true → hostSilent s → finiteWaits s → finiteRate s →
    s.totalLen.toNat - s.consumed.toNat ≤ s.sendAnswers.length →
    ∃ k t, core.run k s = .next t ∧ t.busy = false ∧ t.status ≠ none

/-- Rule R225: a peer that keeps sending Wait frames, each within `N_BS` of the last, holds the block in
AwaitingFlowControl for ever: after any number of steps it is still there, without a status. The hang is a run of the
machine. (That an endless stream comes round in a cycle, after any finite beginning, is the model's choice, log entry
4.) -/
def Obligations.WaitStreamHoldsTheBlock : Prop :=
  ∀ s : State, Inv s → s.state = .awaitingFlowControl → s.rxQueue = [] → s.recurring ≠ [] →
    (∀ i ∈ s.inputs ++ s.recurring, waitsAgain s.nBs i) →
    s.now + s.nextInput.elapsed ≤ s.fcDeadline →
    ∀ k, ∃ u, core.run k s = .next u ∧ u.state = .awaitingFlowControl ∧ u.status = none ∧
      sendsOf u.bus = sendsOf s.bus ∧ (1 ≤ k → u.waitSeen = true ∧ u.fcDeadline = u.now + u.nBs)

/-- Rule R36: `VERBOSE` has no effect on any register, any emitted frame, the status or the timing; that it adds
nothing to the trace is the model's choice, log entry 13. -/
def Obligations.VerboseHasNoEffect : Prop :=
  ∀ (s t : State) (v : Bool), step s = .next t →
    ∃ t', step { s with verbose := v } = .next t' ∧ { t' with verbose := t.verbose } = t

/-- Rule R44: no transition reads an unspecified or meaningless register. Two states that agree on the registers their
`S.state` has a use for take steps that agree again, so no run can tell the other registers' values. -/
def Obligations.UnspecifiedRegistersAreNeverRead : Prop :=
  ∀ s s' t : State, SameLive s s' → step s = .next t → ∃ t', step s' = .next t' ∧ SameLive t t'
end

