-- ==== Sys2Proof/Laws/Codec.lean ====
section
/-! SUPPORT. The block's encoders give the words of the encoding table, eight bytes each (rules R100 to R102), and the
nibbles of a byte built from two. -/

namespace Sys2Proof

@[simp] theorem hiNibble_append (a b : Nibble) : hiNibble (a ++ b) = a := by
  revert a b; decide

@[simp] theorem loNibble_append (a b : Nibble) : loNibble (a ++ b) = b := by
  revert a b; decide

/-- A byte is its two nibbles. -/
theorem nibbles_append (b : Byte) : (hiNibble b ++ loNibble b : Byte) = b := by
  revert b; decide

theorem pad8_length {bs : List Byte} (h : bs.length ≤ 8) : (pad8 bs).length = 8 := by
  simp [pad8, Config.frameLen]; omega

end Sys2Proof

namespace Sys2Proof.Machine

theorem sfPci_eq {n : Nat} (h : n ≤ 7) :
    ((0x0#8 <<< 4) ||| BitVec.ofNat 8 n : Byte) = 0x0#4 ++ BitVec.ofNat 4 n := by
  interval_cases n <;> decide

theorem cfPci_eq (sn : Nibble) :
    (0x20#8 ||| (BitVec.ofNat 8 sn.toNat &&& 0xF#8) : Byte) = 0x2#4 ++ sn := by
  revert sn; decide

theorem ffPciHigh_eq (l : BitVec 12) :
    (0x10#8 ||| (BitVec.ofNat 8 (l.toNat >>> 8) &&& 0xF#8) : Byte) = 0x1#4 ++ l.extractLsb' 8 4 := by
  have h : BitVec.ofNat 8 (l.toNat >>> 8) = BitVec.setWidth 8 (l.extractLsb' 8 4) := by
    apply BitVec.eq_of_toNat_eq
    have := l.isLt
    simp [Nat.shiftRight_eq_div_pow]
    omega
  rw [h]
  generalize l.extractLsb' 8 4 = x
  revert x; decide

theorem ffPciLow_eq (l : BitVec 12) : BitVec.ofNat 8 (l.toNat &&& 0xFF) = l.extractLsb' 0 8 := by
  apply BitVec.eq_of_toNat_eq
  rw [show (0xFF : Nat) = 2 ^ 8 - 1 from rfl, Nat.and_two_pow_sub_one_eq_mod]
  simp

/-- `encodeSingleFrame` inside its precondition (rules R72, R100). -/
theorem encodeSingleFrame_eq {p : List Byte} (h1 : 1 ≤ p.length) (h7 : p.length ≤ 7) :
    encodeSingleFrame p = .ok (encode (.sf p)) := by
  rw [encodeSingleFrame, if_neg (by simp; omega), if_neg (by omega), encode, sfPci_eq h7]

/-- `encodeFirstFrame` inside its precondition (rules R73, R101). -/
theorem encodeFirstFrame_eq {l : BitVec 12} {c : List Byte} (h8 : 8 ≤ l.toNat) (hc : c.length = 6) :
    encodeFirstFrame l.toNat c = .ok (encode (.ff l c)) := by
  have := l.isLt
  rw [encodeFirstFrame, if_pos ⟨h8, by simp; omega, hc⟩, encode, ffPciHigh_eq, ffPciLow_eq]

/-- `encodeConsecutiveFrame` inside its precondition (rules R74, R102). -/
theorem encodeConsecutiveFrame_eq (sn : Nibble) {c : List Byte} (h7 : c.length ≤ 7) :
    encodeConsecutiveFrame sn.toNat c =
      .ok (encode (.cf sn (c ++ List.replicate (7 - c.length) 0x00#8))) := by
  have := sn.isLt
  rw [encodeConsecutiveFrame, if_pos ⟨by omega, h7⟩, encode, cfPci_eq]
  simp [pad8]

/-- Whatever the encoder gives has eight bytes (rules R8, R52). -/
theorem encodeSingleFrame_length {p d : List Byte} (h : encodeSingleFrame p = .ok d) : d.length = 8 := by
  unfold encodeSingleFrame at h
  split at h
  · cases h
  · split at h
    · cases h
    · cases h; exact pad8_length (by simp at *; omega)

theorem encodeFirstFrame_length {n : Nat} {c d : List Byte} (h : encodeFirstFrame n c = .ok d) :
    d.length = 8 := by
  unfold encodeFirstFrame at h
  split at h
  · cases h; simp at *; omega
  · cases h

theorem encodeConsecutiveFrame_length {n : Nat} {c d : List Byte}
    (h : encodeConsecutiveFrame n c = .ok d) : d.length = 8 := by
  unfold encodeConsecutiveFrame at h
  split at h
  · cases h; exact pad8_length (by simp at *; omega)
  · cases h

end Sys2Proof.Machine
end

