-- ==== Sys2Proof/Laws/Memory.lean ====
section
/-! SUPPORT. The payload memory: the snapshot is canonical and holds the payload's bytes, and what a read of a range
gives (rules R50, R51, R68). -/

namespace Sys2Proof.Machine

theorem read_ofBytesFrom (bs : List Byte) (addr a : Nat) :
    (Memory.ofBytesFrom addr bs).read a = if addr ≤ a then bs[a - addr]? else none := by
  induction bs generalizing addr with
  | nil => simp [Memory.ofBytesFrom, Memory.read]
  | cons b bs ih =>
    simp only [Memory.ofBytesFrom, Memory.read, ih]
    by_cases h : addr = a
    · simp [h]
    · by_cases h2 : addr ≤ a
      · have h3 : a - addr = (a - (addr + 1)) + 1 := by omega
        rw [if_neg h, if_pos h2, if_pos (by omega), h3, List.getElem?_cons_succ]
      · rw [if_neg h, if_neg h2, if_neg (by omega)]

/-- Reading the snapshot gives the payload's byte, and nothing beyond its end. -/
theorem read_ofBytes (bs : List Byte) (a : Nat) : (Memory.ofBytes bs).read a = bs[a]? := by
  simp [Memory.ofBytes, read_ofBytesFrom]

theorem ofBytesFrom_addresses (bs : List Byte) (addr : Nat) :
    (Memory.ofBytesFrom addr bs).map Prod.fst = List.range' addr bs.length := by
  induction bs generalizing addr with
  | nil => rfl
  | cons b bs ih => simp [Memory.ofBytesFrom, ih, List.range'_succ]

/-- The snapshot lists exactly the addresses `0 .. LEN-1` (rule R50). -/
theorem ofBytes_addresses (bs : List Byte) : (Memory.ofBytes bs).map Prod.fst = List.range bs.length := by
  rw [Memory.ofBytes, ofBytesFrom_addresses, List.range_eq_range']

/-- A memory that lists `0 .. n-1` is in canonical form. -/
theorem wf_of_addresses {m : Memory} {n : Nat} (h : m.map Prod.fst = List.range n) : m.wf := by
  have : (m.map Prod.fst).Pairwise (· < ·) := h ▸ List.pairwise_lt_range
  exact List.pairwise_map.mp this

/-- The one operation that writes the payload memory keeps the canonical form. -/
theorem ofBytes_wf (bs : List Byte) : (Memory.ofBytes bs).wf := wf_of_addresses (ofBytes_addresses bs)

theorem read_isSome_iff (m : Memory) (a : Nat) : (m.read a).isSome ↔ a ∈ m.map Prod.fst := by
  induction m with
  | nil => simp [Memory.read]
  | cons c m ih =>
    obtain ⟨k, b⟩ := c
    by_cases h : k = a
    · simp [Memory.read, h]
    · simp [Memory.read, h, ih, Ne.symm h]

/-- What a read of a range answers, byte by byte. -/
theorem readRange_eq_some_iff (m : Memory) (addr n : Nat) (bs : List Byte) :
    m.readRange addr n = some bs ↔ bs.length = n ∧ ∀ k, k < n → m.read (addr + k) = bs[k]? := by
  induction n generalizing addr bs with
  | zero =>
    simp only [Memory.readRange, Option.some.injEq, Nat.not_lt_zero, false_implies, implies_true, and_true]
    constructor
    · rintro rfl; rfl
    · intro h; exact (List.length_eq_zero_iff.mp h).symm
  | succ n ih =>
    simp only [Memory.readRange]
    constructor
    · intro h
      split at h
      · rename_i b bs' hb hbs
        obtain ⟨hl, hr⟩ := (ih (addr + 1) bs').mp hbs
        cases h
        refine ⟨by simp [hl], fun k hk => ?_⟩
        cases k with
        | zero => simpa using hb
        | succ k =>
          have := hr k (by omega)
          rw [show addr + (k + 1) = addr + 1 + k by omega]
          simpa using this
      · cases h
    · rintro ⟨hl, hr⟩
      cases bs with
      | nil => simp at hl
      | cons b bs =>
        have h0 : m.read addr = some b := by simpa using hr 0 (by omega)
        have ht : m.readRange (addr + 1) n = some bs := by
          refine (ih (addr + 1) bs).mpr ⟨by simpa using hl, fun k hk => ?_⟩
          have := hr (k + 1) (by omega)
          rw [show addr + 1 + k = addr + (k + 1) by omega]
          simpa using this
        simp [h0, ht]

/-- Inside the listed addresses every range can be read. -/
theorem readRange_of_addresses {m : Memory} {len : Nat} (h : m.map Prod.fst = List.range len)
    {addr n : Nat} (hn : addr + n ≤ len) : ∃ bs, m.readRange addr n = some bs ∧ bs.length = n := by
  induction n generalizing addr with
  | zero => exact ⟨[], rfl, rfl⟩
  | succ n ih =>
    obtain ⟨bs, hbs, hl⟩ := ih (addr := addr + 1) (by omega)
    have : (m.read addr).isSome := by
      rw [read_isSome_iff, h, List.mem_range]; omega
    obtain ⟨b, hb⟩ := Option.isSome_iff_exists.mp this
    exact ⟨b :: bs, by simp [Memory.readRange, hb, hbs], by simp [hl]⟩

/-- A range of the snapshot is that range of the payload. -/
theorem readRange_ofBytes (p : List Byte) {addr n : Nat} (h : addr + n ≤ p.length) :
    (Memory.ofBytes p).readRange addr n = some ((p.drop addr).take n) := by
  rw [readRange_eq_some_iff]
  refine ⟨by simp; omega, fun k hk => ?_⟩
  rw [read_ofBytes, List.getElem?_take_of_lt hk, List.getElem?_drop]

end Sys2Proof.Machine
end

