-- ==== Sys2Proof/Laws/State.lean ====
section
/-! SUPPORT. Every field of the state after each named update, true by rfl, so that no proof unfolds a record
update. `State.logFailure`, which looks at its answer, and `State.afterCf` have their equations at the end. -/

namespace Sys2Proof.Machine

variable (s : State)

@[simp] theorem advance_state (n : Nat) : (s.advance n).state = s.state := rfl
@[simp] theorem advance_totalLen (n : Nat) : (s.advance n).totalLen = s.totalLen := rfl
@[simp] theorem advance_consumed (n : Nat) : (s.advance n).consumed = s.consumed := rfl
@[simp] theorem advance_seq (n : Nat) : (s.advance n).seq = s.seq := rfl
@[simp] theorem advance_bsUnlimited (n : Nat) : (s.advance n).bsUnlimited = s.bsUnlimited := rfl
@[simp] theorem advance_bsRem (n : Nat) : (s.advance n).bsRem = s.bsRem := rfl
@[simp] theorem advance_sepUs (n : Nat) : (s.advance n).sepUs = s.sepUs := rfl
@[simp] theorem advance_granted (n : Nat) : (s.advance n).granted = s.granted := rfl
@[simp] theorem advance_waitSeen (n : Nat) : (s.advance n).waitSeen = s.waitSeen := rfl
@[simp] theorem advance_result (n : Nat) : (s.advance n).result = s.result := rfl
@[simp] theorem advance_txId (n : Nat) : (s.advance n).txId = s.txId := rfl
@[simp] theorem advance_fcId (n : Nat) : (s.advance n).fcId = s.fcId := rfl
@[simp] theorem advance_verbose (n : Nat) : (s.advance n).verbose = s.verbose := rfl
@[simp] theorem advance_len (n : Nat) : (s.advance n).len = s.len := rfl
@[simp] theorem advance_payload (n : Nat) : (s.advance n).payload = s.payload := rfl
@[simp] theorem advance_nBs (n : Nat) : (s.advance n).nBs = s.nBs := rfl
@[simp] theorem advance_sendTimeout (n : Nat) : (s.advance n).sendTimeout = s.sendTimeout := rfl
@[simp] theorem advance_fcDeadline (n : Nat) : (s.advance n).fcDeadline = s.fcDeadline := rfl
@[simp] theorem advance_tLast (n : Nat) : (s.advance n).tLast = s.tLast := rfl
@[simp] theorem advance_now (n : Nat) : (s.advance n).now = s.now + n := rfl
@[simp] theorem advance_rxQueue (n : Nat) : (s.advance n).rxQueue = s.rxQueue := rfl
@[simp] theorem advance_sendAnswers (n : Nat) : (s.advance n).sendAnswers = s.sendAnswers := rfl
@[simp] theorem advance_inputs (n : Nat) : (s.advance n).inputs = s.inputs := rfl
@[simp] theorem advance_recurring (n : Nat) : (s.advance n).recurring = s.recurring := rfl
@[simp] theorem advance_bus (n : Nat) : (s.advance n).bus = s.bus := rfl
@[simp] theorem advance_log (n : Nat) : (s.advance n).log = s.log := rfl

@[simp] theorem wait_state : s.wait.state = s.state := rfl
@[simp] theorem wait_totalLen : s.wait.totalLen = s.totalLen := rfl
@[simp] theorem wait_consumed : s.wait.consumed = s.consumed := rfl
@[simp] theorem wait_seq : s.wait.seq = s.seq := rfl
@[simp] theorem wait_bsUnlimited : s.wait.bsUnlimited = s.bsUnlimited := rfl
@[simp] theorem wait_bsRem : s.wait.bsRem = s.bsRem := rfl
@[simp] theorem wait_sepUs : s.wait.sepUs = s.sepUs := rfl
@[simp] theorem wait_granted : s.wait.granted = s.granted := rfl
@[simp] theorem wait_waitSeen : s.wait.waitSeen = s.waitSeen := rfl
@[simp] theorem wait_result : s.wait.result = s.result := rfl
@[simp] theorem wait_txId : s.wait.txId = s.txId := rfl
@[simp] theorem wait_fcId : s.wait.fcId = s.fcId := rfl
@[simp] theorem wait_verbose : s.wait.verbose = s.verbose := rfl
@[simp] theorem wait_len : s.wait.len = s.len := rfl
@[simp] theorem wait_payload : s.wait.payload = s.payload := rfl
@[simp] theorem wait_nBs : s.wait.nBs = s.nBs := rfl
@[simp] theorem wait_sendTimeout : s.wait.sendTimeout = s.sendTimeout := rfl
@[simp] theorem wait_fcDeadline : s.wait.fcDeadline = s.fcDeadline := rfl
@[simp] theorem wait_tLast : s.wait.tLast = s.tLast := rfl
@[simp] theorem wait_now : s.wait.now = s.now + 1 := rfl
@[simp] theorem wait_rxQueue : s.wait.rxQueue = s.rxQueue := rfl
@[simp] theorem wait_sendAnswers : s.wait.sendAnswers = s.sendAnswers := rfl
@[simp] theorem wait_inputs : s.wait.inputs = s.inputs := rfl
@[simp] theorem wait_recurring : s.wait.recurring = s.recurring := rfl
@[simp] theorem wait_bus : s.wait.bus = s.bus := rfl
@[simp] theorem wait_log : s.wait.log = s.log := rfl

@[simp] theorem record_state (e : LogEvent) : (s.record e).state = s.state := rfl
@[simp] theorem record_totalLen (e : LogEvent) : (s.record e).totalLen = s.totalLen := rfl
@[simp] theorem record_consumed (e : LogEvent) : (s.record e).consumed = s.consumed := rfl
@[simp] theorem record_seq (e : LogEvent) : (s.record e).seq = s.seq := rfl
@[simp] theorem record_bsUnlimited (e : LogEvent) : (s.record e).bsUnlimited = s.bsUnlimited := rfl
@[simp] theorem record_bsRem (e : LogEvent) : (s.record e).bsRem = s.bsRem := rfl
@[simp] theorem record_sepUs (e : LogEvent) : (s.record e).sepUs = s.sepUs := rfl
@[simp] theorem record_granted (e : LogEvent) : (s.record e).granted = s.granted := rfl
@[simp] theorem record_waitSeen (e : LogEvent) : (s.record e).waitSeen = s.waitSeen := rfl
@[simp] theorem record_result (e : LogEvent) : (s.record e).result = s.result := rfl
@[simp] theorem record_txId (e : LogEvent) : (s.record e).txId = s.txId := rfl
@[simp] theorem record_fcId (e : LogEvent) : (s.record e).fcId = s.fcId := rfl
@[simp] theorem record_verbose (e : LogEvent) : (s.record e).verbose = s.verbose := rfl
@[simp] theorem record_len (e : LogEvent) : (s.record e).len = s.len := rfl
@[simp] theorem record_payload (e : LogEvent) : (s.record e).payload = s.payload := rfl
@[simp] theorem record_nBs (e : LogEvent) : (s.record e).nBs = s.nBs := rfl
@[simp] theorem record_sendTimeout (e : LogEvent) : (s.record e).sendTimeout = s.sendTimeout := rfl
@[simp] theorem record_fcDeadline (e : LogEvent) : (s.record e).fcDeadline = s.fcDeadline := rfl
@[simp] theorem record_tLast (e : LogEvent) : (s.record e).tLast = s.tLast := rfl
@[simp] theorem record_now (e : LogEvent) : (s.record e).now = s.now := rfl
@[simp] theorem record_rxQueue (e : LogEvent) : (s.record e).rxQueue = s.rxQueue := rfl
@[simp] theorem record_sendAnswers (e : LogEvent) : (s.record e).sendAnswers = s.sendAnswers := rfl
@[simp] theorem record_inputs (e : LogEvent) : (s.record e).inputs = s.inputs := rfl
@[simp] theorem record_recurring (e : LogEvent) : (s.record e).recurring = s.recurring := rfl
@[simp] theorem record_bus (e : LogEvent) : (s.record e).bus = s.bus := rfl
@[simp] theorem record_log (e : LogEvent) : (s.record e).log = s.log ++ [e] := rfl

@[simp] theorem sent_state (d : List Byte) (a : SendAnswer) : (s.sent d a).state = s.state := rfl
@[simp] theorem sent_totalLen (d : List Byte) (a : SendAnswer) : (s.sent d a).totalLen = s.totalLen := rfl
@[simp] theorem sent_consumed (d : List Byte) (a : SendAnswer) : (s.sent d a).consumed = s.consumed := rfl
@[simp] theorem sent_seq (d : List Byte) (a : SendAnswer) : (s.sent d a).seq = s.seq := rfl
@[simp] theorem sent_bsUnlimited (d : List Byte) (a : SendAnswer) : (s.sent d a).bsUnlimited = s.bsUnlimited := rfl
@[simp] theorem sent_bsRem (d : List Byte) (a : SendAnswer) : (s.sent d a).bsRem = s.bsRem := rfl
@[simp] theorem sent_sepUs (d : List Byte) (a : SendAnswer) : (s.sent d a).sepUs = s.sepUs := rfl
@[simp] theorem sent_granted (d : List Byte) (a : SendAnswer) : (s.sent d a).granted = s.granted := rfl
@[simp] theorem sent_waitSeen (d : List Byte) (a : SendAnswer) : (s.sent d a).waitSeen = s.waitSeen := rfl
@[simp] theorem sent_result (d : List Byte) (a : SendAnswer) : (s.sent d a).result = s.result := rfl
@[simp] theorem sent_txId (d : List Byte) (a : SendAnswer) : (s.sent d a).txId = s.txId := rfl
@[simp] theorem sent_fcId (d : List Byte) (a : SendAnswer) : (s.sent d a).fcId = s.fcId := rfl
@[simp] theorem sent_verbose (d : List Byte) (a : SendAnswer) : (s.sent d a).verbose = s.verbose := rfl
@[simp] theorem sent_len (d : List Byte) (a : SendAnswer) : (s.sent d a).len = s.len := rfl
@[simp] theorem sent_payload (d : List Byte) (a : SendAnswer) : (s.sent d a).payload = s.payload := rfl
@[simp] theorem sent_nBs (d : List Byte) (a : SendAnswer) : (s.sent d a).nBs = s.nBs := rfl
@[simp] theorem sent_sendTimeout (d : List Byte) (a : SendAnswer) : (s.sent d a).sendTimeout = s.sendTimeout := rfl
@[simp] theorem sent_fcDeadline (d : List Byte) (a : SendAnswer) : (s.sent d a).fcDeadline = s.fcDeadline := rfl
@[simp] theorem sent_tLast (d : List Byte) (a : SendAnswer) : (s.sent d a).tLast = s.now + a.took := rfl
@[simp] theorem sent_now (d : List Byte) (a : SendAnswer) : (s.sent d a).now = s.now + a.took := rfl
@[simp] theorem sent_rxQueue (d : List Byte) (a : SendAnswer) : (s.sent d a).rxQueue = s.rxQueue := rfl
@[simp] theorem sent_sendAnswers (d : List Byte) (a : SendAnswer) : (s.sent d a).sendAnswers = s.sendAnswers.tail := rfl
@[simp] theorem sent_inputs (d : List Byte) (a : SendAnswer) : (s.sent d a).inputs = s.inputs := rfl
@[simp] theorem sent_recurring (d : List Byte) (a : SendAnswer) : (s.sent d a).recurring = s.recurring := rfl
@[simp] theorem sent_bus (d : List Byte) (a : SendAnswer) : (s.sent d a).bus = s.bus ++ [.send s.now s.txId d a.result] := rfl
@[simp] theorem sent_log (d : List Byte) (a : SendAnswer) : (s.sent d a).log = s.log := rfl

@[simp] theorem recvAnswered_state (a : Option (List Byte)) : (s.recvAnswered a).state = s.state := rfl
@[simp] theorem recvAnswered_totalLen (a : Option (List Byte)) : (s.recvAnswered a).totalLen = s.totalLen := rfl
@[simp] theorem recvAnswered_consumed (a : Option (List Byte)) : (s.recvAnswered a).consumed = s.consumed := rfl
@[simp] theorem recvAnswered_seq (a : Option (List Byte)) : (s.recvAnswered a).seq = s.seq := rfl
@[simp] theorem recvAnswered_bsUnlimited (a : Option (List Byte)) : (s.recvAnswered a).bsUnlimited = s.bsUnlimited := rfl
@[simp] theorem recvAnswered_bsRem (a : Option (List Byte)) : (s.recvAnswered a).bsRem = s.bsRem := rfl
@[simp] theorem recvAnswered_sepUs (a : Option (List Byte)) : (s.recvAnswered a).sepUs = s.sepUs := rfl
@[simp] theorem recvAnswered_granted (a : Option (List Byte)) : (s.recvAnswered a).granted = s.granted := rfl
@[simp] theorem recvAnswered_waitSeen (a : Option (List Byte)) : (s.recvAnswered a).waitSeen = s.waitSeen := rfl
@[simp] theorem recvAnswered_result (a : Option (List Byte)) : (s.recvAnswered a).result = s.result := rfl
@[simp] theorem recvAnswered_txId (a : Option (List Byte)) : (s.recvAnswered a).txId = s.txId := rfl
@[simp] theorem recvAnswered_fcId (a : Option (List Byte)) : (s.recvAnswered a).fcId = s.fcId := rfl
@[simp] theorem recvAnswered_verbose (a : Option (List Byte)) : (s.recvAnswered a).verbose = s.verbose := rfl
@[simp] theorem recvAnswered_len (a : Option (List Byte)) : (s.recvAnswered a).len = s.len := rfl
@[simp] theorem recvAnswered_payload (a : Option (List Byte)) : (s.recvAnswered a).payload = s.payload := rfl
@[simp] theorem recvAnswered_nBs (a : Option (List Byte)) : (s.recvAnswered a).nBs = s.nBs := rfl
@[simp] theorem recvAnswered_sendTimeout (a : Option (List Byte)) : (s.recvAnswered a).sendTimeout = s.sendTimeout := rfl
@[simp] theorem recvAnswered_fcDeadline (a : Option (List Byte)) : (s.recvAnswered a).fcDeadline = s.fcDeadline := rfl
@[simp] theorem recvAnswered_tLast (a : Option (List Byte)) : (s.recvAnswered a).tLast = s.tLast := rfl
@[simp] theorem recvAnswered_now (a : Option (List Byte)) : (s.recvAnswered a).now = s.now := rfl
@[simp] theorem recvAnswered_rxQueue (a : Option (List Byte)) : (s.recvAnswered a).rxQueue = s.rxQueue := rfl
@[simp] theorem recvAnswered_sendAnswers (a : Option (List Byte)) : (s.recvAnswered a).sendAnswers = s.sendAnswers := rfl
@[simp] theorem recvAnswered_inputs (a : Option (List Byte)) : (s.recvAnswered a).inputs = s.inputs := rfl
@[simp] theorem recvAnswered_recurring (a : Option (List Byte)) : (s.recvAnswered a).recurring = s.recurring := rfl
@[simp] theorem recvAnswered_bus (a : Option (List Byte)) : (s.recvAnswered a).bus = s.bus ++ [.recv s.now s.fcId (s.fcDeadline - s.now) a] := rfl
@[simp] theorem recvAnswered_log (a : Option (List Byte)) : (s.recvAnswered a).log = s.log := rfl

@[simp] theorem raiseError_state (k : ErrorKind) (st : Status) : (s.raiseError k st).state = .error k := rfl
@[simp] theorem raiseError_totalLen (k : ErrorKind) (st : Status) : (s.raiseError k st).totalLen = s.totalLen := rfl
@[simp] theorem raiseError_consumed (k : ErrorKind) (st : Status) : (s.raiseError k st).consumed = s.consumed := rfl
@[simp] theorem raiseError_seq (k : ErrorKind) (st : Status) : (s.raiseError k st).seq = s.seq := rfl
@[simp] theorem raiseError_bsUnlimited (k : ErrorKind) (st : Status) : (s.raiseError k st).bsUnlimited = s.bsUnlimited := rfl
@[simp] theorem raiseError_bsRem (k : ErrorKind) (st : Status) : (s.raiseError k st).bsRem = s.bsRem := rfl
@[simp] theorem raiseError_sepUs (k : ErrorKind) (st : Status) : (s.raiseError k st).sepUs = s.sepUs := rfl
@[simp] theorem raiseError_granted (k : ErrorKind) (st : Status) : (s.raiseError k st).granted = s.granted := rfl
@[simp] theorem raiseError_waitSeen (k : ErrorKind) (st : Status) : (s.raiseError k st).waitSeen = s.waitSeen := rfl
@[simp] theorem raiseError_result (k : ErrorKind) (st : Status) : (s.raiseError k st).result = some st := rfl
@[simp] theorem raiseError_txId (k : ErrorKind) (st : Status) : (s.raiseError k st).txId = s.txId := rfl
@[simp] theorem raiseError_fcId (k : ErrorKind) (st : Status) : (s.raiseError k st).fcId = s.fcId := rfl
@[simp] theorem raiseError_verbose (k : ErrorKind) (st : Status) : (s.raiseError k st).verbose = s.verbose := rfl
@[simp] theorem raiseError_len (k : ErrorKind) (st : Status) : (s.raiseError k st).len = s.len := rfl
@[simp] theorem raiseError_payload (k : ErrorKind) (st : Status) : (s.raiseError k st).payload = s.payload := rfl
@[simp] theorem raiseError_nBs (k : ErrorKind) (st : Status) : (s.raiseError k st).nBs = s.nBs := rfl
@[simp] theorem raiseError_sendTimeout (k : ErrorKind) (st : Status) : (s.raiseError k st).sendTimeout = s.sendTimeout := rfl
@[simp] theorem raiseError_fcDeadline (k : ErrorKind) (st : Status) : (s.raiseError k st).fcDeadline = s.fcDeadline := rfl
@[simp] theorem raiseError_tLast (k : ErrorKind) (st : Status) : (s.raiseError k st).tLast = s.tLast := rfl
@[simp] theorem raiseError_now (k : ErrorKind) (st : Status) : (s.raiseError k st).now = s.now := rfl
@[simp] theorem raiseError_rxQueue (k : ErrorKind) (st : Status) : (s.raiseError k st).rxQueue = s.rxQueue := rfl
@[simp] theorem raiseError_sendAnswers (k : ErrorKind) (st : Status) : (s.raiseError k st).sendAnswers = s.sendAnswers := rfl
@[simp] theorem raiseError_inputs (k : ErrorKind) (st : Status) : (s.raiseError k st).inputs = s.inputs := rfl
@[simp] theorem raiseError_recurring (k : ErrorKind) (st : Status) : (s.raiseError k st).recurring = s.recurring := rfl
@[simp] theorem raiseError_bus (k : ErrorKind) (st : Status) : (s.raiseError k st).bus = s.bus := rfl
@[simp] theorem raiseError_log (k : ErrorKind) (st : Status) : (s.raiseError k st).log = s.log := rfl

@[simp] theorem overflow_state : s.overflow.state = .error .flowControlOverflow := rfl
@[simp] theorem overflow_totalLen : s.overflow.totalLen = s.totalLen := rfl
@[simp] theorem overflow_consumed : s.overflow.consumed = s.consumed := rfl
@[simp] theorem overflow_seq : s.overflow.seq = s.seq := rfl
@[simp] theorem overflow_bsUnlimited : s.overflow.bsUnlimited = s.bsUnlimited := rfl
@[simp] theorem overflow_bsRem : s.overflow.bsRem = s.bsRem := rfl
@[simp] theorem overflow_sepUs : s.overflow.sepUs = s.sepUs := rfl
@[simp] theorem overflow_granted : s.overflow.granted = s.granted := rfl
@[simp] theorem overflow_waitSeen : s.overflow.waitSeen = s.waitSeen := rfl
@[simp] theorem overflow_result : s.overflow.result = some (overflowStatus s.granted) := rfl
@[simp] theorem overflow_txId : s.overflow.txId = s.txId := rfl
@[simp] theorem overflow_fcId : s.overflow.fcId = s.fcId := rfl
@[simp] theorem overflow_verbose : s.overflow.verbose = s.verbose := rfl
@[simp] theorem overflow_len : s.overflow.len = s.len := rfl
@[simp] theorem overflow_payload : s.overflow.payload = s.payload := rfl
@[simp] theorem overflow_nBs : s.overflow.nBs = s.nBs := rfl
@[simp] theorem overflow_sendTimeout : s.overflow.sendTimeout = s.sendTimeout := rfl
@[simp] theorem overflow_fcDeadline : s.overflow.fcDeadline = s.fcDeadline := rfl
@[simp] theorem overflow_tLast : s.overflow.tLast = s.tLast := rfl
@[simp] theorem overflow_now : s.overflow.now = s.now := rfl
@[simp] theorem overflow_rxQueue : s.overflow.rxQueue = s.rxQueue := rfl
@[simp] theorem overflow_sendAnswers : s.overflow.sendAnswers = s.sendAnswers := rfl
@[simp] theorem overflow_inputs : s.overflow.inputs = s.inputs := rfl
@[simp] theorem overflow_recurring : s.overflow.recurring = s.recurring := rfl
@[simp] theorem overflow_bus : s.overflow.bus = s.bus := rfl
@[simp] theorem overflow_log : s.overflow.log = s.log := rfl

@[simp] theorem timeout_state : s.timeout.state = .error .flowControlTimeout := rfl
@[simp] theorem timeout_totalLen : s.timeout.totalLen = s.totalLen := rfl
@[simp] theorem timeout_consumed : s.timeout.consumed = s.consumed := rfl
@[simp] theorem timeout_seq : s.timeout.seq = s.seq := rfl
@[simp] theorem timeout_bsUnlimited : s.timeout.bsUnlimited = s.bsUnlimited := rfl
@[simp] theorem timeout_bsRem : s.timeout.bsRem = s.bsRem := rfl
@[simp] theorem timeout_sepUs : s.timeout.sepUs = s.sepUs := rfl
@[simp] theorem timeout_granted : s.timeout.granted = s.granted := rfl
@[simp] theorem timeout_waitSeen : s.timeout.waitSeen = s.waitSeen := rfl
@[simp] theorem timeout_result : s.timeout.result = some (timeoutStatus s.granted s.waitSeen) := rfl
@[simp] theorem timeout_txId : s.timeout.txId = s.txId := rfl
@[simp] theorem timeout_fcId : s.timeout.fcId = s.fcId := rfl
@[simp] theorem timeout_verbose : s.timeout.verbose = s.verbose := rfl
@[simp] theorem timeout_len : s.timeout.len = s.len := rfl
@[simp] theorem timeout_payload : s.timeout.payload = s.payload := rfl
@[simp] theorem timeout_nBs : s.timeout.nBs = s.nBs := rfl
@[simp] theorem timeout_sendTimeout : s.timeout.sendTimeout = s.sendTimeout := rfl
@[simp] theorem timeout_fcDeadline : s.timeout.fcDeadline = s.fcDeadline := rfl
@[simp] theorem timeout_tLast : s.timeout.tLast = s.tLast := rfl
@[simp] theorem timeout_now : s.timeout.now = s.now := rfl
@[simp] theorem timeout_rxQueue : s.timeout.rxQueue = s.rxQueue := rfl
@[simp] theorem timeout_sendAnswers : s.timeout.sendAnswers = s.sendAnswers := rfl
@[simp] theorem timeout_inputs : s.timeout.inputs = s.inputs := rfl
@[simp] theorem timeout_recurring : s.timeout.recurring = s.recurring := rfl
@[simp] theorem timeout_bus : s.timeout.bus = s.bus := rfl
@[simp] theorem timeout_log : s.timeout.log = s.log := rfl

@[simp] theorem discard_state : s.discard.state = .awaitingFlowControl := rfl
@[simp] theorem discard_totalLen : s.discard.totalLen = s.totalLen := rfl
@[simp] theorem discard_consumed : s.discard.consumed = s.consumed := rfl
@[simp] theorem discard_seq : s.discard.seq = s.seq := rfl
@[simp] theorem discard_bsUnlimited : s.discard.bsUnlimited = s.bsUnlimited := rfl
@[simp] theorem discard_bsRem : s.discard.bsRem = s.bsRem := rfl
@[simp] theorem discard_sepUs : s.discard.sepUs = s.sepUs := rfl
@[simp] theorem discard_granted : s.discard.granted = s.granted := rfl
@[simp] theorem discard_waitSeen : s.discard.waitSeen = s.waitSeen := rfl
@[simp] theorem discard_result : s.discard.result = s.result := rfl
@[simp] theorem discard_txId : s.discard.txId = s.txId := rfl
@[simp] theorem discard_fcId : s.discard.fcId = s.fcId := rfl
@[simp] theorem discard_verbose : s.discard.verbose = s.verbose := rfl
@[simp] theorem discard_len : s.discard.len = s.len := rfl
@[simp] theorem discard_payload : s.discard.payload = s.payload := rfl
@[simp] theorem discard_nBs : s.discard.nBs = s.nBs := rfl
@[simp] theorem discard_sendTimeout : s.discard.sendTimeout = s.sendTimeout := rfl
@[simp] theorem discard_fcDeadline : s.discard.fcDeadline = s.fcDeadline := rfl
@[simp] theorem discard_tLast : s.discard.tLast = s.tLast := rfl
@[simp] theorem discard_now : s.discard.now = s.now := rfl
@[simp] theorem discard_rxQueue : s.discard.rxQueue = s.rxQueue := rfl
@[simp] theorem discard_sendAnswers : s.discard.sendAnswers = s.sendAnswers := rfl
@[simp] theorem discard_inputs : s.discard.inputs = s.inputs := rfl
@[simp] theorem discard_recurring : s.discard.recurring = s.recurring := rfl
@[simp] theorem discard_bus : s.discard.bus = s.bus := rfl
@[simp] theorem discard_log : s.discard.log = s.log := rfl

@[simp] theorem finish_state : s.finish.state = .done := rfl
@[simp] theorem finish_totalLen : s.finish.totalLen = s.totalLen := rfl
@[simp] theorem finish_consumed : s.finish.consumed = s.consumed := rfl
@[simp] theorem finish_seq : s.finish.seq = s.seq := rfl
@[simp] theorem finish_bsUnlimited : s.finish.bsUnlimited = s.bsUnlimited := rfl
@[simp] theorem finish_bsRem : s.finish.bsRem = s.bsRem := rfl
@[simp] theorem finish_sepUs : s.finish.sepUs = s.sepUs := rfl
@[simp] theorem finish_granted : s.finish.granted = s.granted := rfl
@[simp] theorem finish_waitSeen : s.finish.waitSeen = s.waitSeen := rfl
@[simp] theorem finish_result : s.finish.result = some .success := rfl
@[simp] theorem finish_txId : s.finish.txId = s.txId := rfl
@[simp] theorem finish_fcId : s.finish.fcId = s.fcId := rfl
@[simp] theorem finish_verbose : s.finish.verbose = s.verbose := rfl
@[simp] theorem finish_len : s.finish.len = s.len := rfl
@[simp] theorem finish_payload : s.finish.payload = s.payload := rfl
@[simp] theorem finish_nBs : s.finish.nBs = s.nBs := rfl
@[simp] theorem finish_sendTimeout : s.finish.sendTimeout = s.sendTimeout := rfl
@[simp] theorem finish_fcDeadline : s.finish.fcDeadline = s.fcDeadline := rfl
@[simp] theorem finish_tLast : s.finish.tLast = s.tLast := rfl
@[simp] theorem finish_now : s.finish.now = s.now := rfl
@[simp] theorem finish_rxQueue : s.finish.rxQueue = s.rxQueue := rfl
@[simp] theorem finish_sendAnswers : s.finish.sendAnswers = s.sendAnswers := rfl
@[simp] theorem finish_inputs : s.finish.inputs = s.inputs := rfl
@[simp] theorem finish_recurring : s.finish.recurring = s.recurring := rfl
@[simp] theorem finish_bus : s.finish.bus = s.bus := rfl
@[simp] theorem finish_log : s.finish.log = s.log := rfl

@[simp] theorem enterAwait_state : s.enterAwait.state = .awaitingFlowControl := rfl
@[simp] theorem enterAwait_totalLen : s.enterAwait.totalLen = s.totalLen := rfl
@[simp] theorem enterAwait_consumed : s.enterAwait.consumed = s.consumed := rfl
@[simp] theorem enterAwait_seq : s.enterAwait.seq = s.seq := rfl
@[simp] theorem enterAwait_bsUnlimited : s.enterAwait.bsUnlimited = s.bsUnlimited := rfl
@[simp] theorem enterAwait_bsRem : s.enterAwait.bsRem = s.bsRem := rfl
@[simp] theorem enterAwait_sepUs : s.enterAwait.sepUs = s.sepUs := rfl
@[simp] theorem enterAwait_granted : s.enterAwait.granted = s.granted := rfl
@[simp] theorem enterAwait_waitSeen : s.enterAwait.waitSeen = false := rfl
@[simp] theorem enterAwait_result : s.enterAwait.result = s.result := rfl
@[simp] theorem enterAwait_txId : s.enterAwait.txId = s.txId := rfl
@[simp] theorem enterAwait_fcId : s.enterAwait.fcId = s.fcId := rfl
@[simp] theorem enterAwait_verbose : s.enterAwait.verbose = s.verbose := rfl
@[simp] theorem enterAwait_len : s.enterAwait.len = s.len := rfl
@[simp] theorem enterAwait_payload : s.enterAwait.payload = s.payload := rfl
@[simp] theorem enterAwait_nBs : s.enterAwait.nBs = s.nBs := rfl
@[simp] theorem enterAwait_sendTimeout : s.enterAwait.sendTimeout = s.sendTimeout := rfl
@[simp] theorem enterAwait_fcDeadline : s.enterAwait.fcDeadline = s.now + s.nBs := rfl
@[simp] theorem enterAwait_tLast : s.enterAwait.tLast = s.tLast := rfl
@[simp] theorem enterAwait_now : s.enterAwait.now = s.now := rfl
@[simp] theorem enterAwait_rxQueue : s.enterAwait.rxQueue = s.rxQueue := rfl
@[simp] theorem enterAwait_sendAnswers : s.enterAwait.sendAnswers = s.sendAnswers := rfl
@[simp] theorem enterAwait_inputs : s.enterAwait.inputs = s.inputs := rfl
@[simp] theorem enterAwait_recurring : s.enterAwait.recurring = s.recurring := rfl
@[simp] theorem enterAwait_bus : s.enterAwait.bus = s.bus := rfl
@[simp] theorem enterAwait_log : s.enterAwait.log = s.log := rfl

@[simp] theorem waitMore_state : s.waitMore.state = .awaitingFlowControl := rfl
@[simp] theorem waitMore_totalLen : s.waitMore.totalLen = s.totalLen := rfl
@[simp] theorem waitMore_consumed : s.waitMore.consumed = s.consumed := rfl
@[simp] theorem waitMore_seq : s.waitMore.seq = s.seq := rfl
@[simp] theorem waitMore_bsUnlimited : s.waitMore.bsUnlimited = s.bsUnlimited := rfl
@[simp] theorem waitMore_bsRem : s.waitMore.bsRem = s.bsRem := rfl
@[simp] theorem waitMore_sepUs : s.waitMore.sepUs = s.sepUs := rfl
@[simp] theorem waitMore_granted : s.waitMore.granted = s.granted := rfl
@[simp] theorem waitMore_waitSeen : s.waitMore.waitSeen = true := rfl
@[simp] theorem waitMore_result : s.waitMore.result = s.result := rfl
@[simp] theorem waitMore_txId : s.waitMore.txId = s.txId := rfl
@[simp] theorem waitMore_fcId : s.waitMore.fcId = s.fcId := rfl
@[simp] theorem waitMore_verbose : s.waitMore.verbose = s.verbose := rfl
@[simp] theorem waitMore_len : s.waitMore.len = s.len := rfl
@[simp] theorem waitMore_payload : s.waitMore.payload = s.payload := rfl
@[simp] theorem waitMore_nBs : s.waitMore.nBs = s.nBs := rfl
@[simp] theorem waitMore_sendTimeout : s.waitMore.sendTimeout = s.sendTimeout := rfl
@[simp] theorem waitMore_fcDeadline : s.waitMore.fcDeadline = s.now + s.nBs := rfl
@[simp] theorem waitMore_tLast : s.waitMore.tLast = s.tLast := rfl
@[simp] theorem waitMore_now : s.waitMore.now = s.now := rfl
@[simp] theorem waitMore_rxQueue : s.waitMore.rxQueue = s.rxQueue := rfl
@[simp] theorem waitMore_sendAnswers : s.waitMore.sendAnswers = s.sendAnswers := rfl
@[simp] theorem waitMore_inputs : s.waitMore.inputs = s.inputs := rfl
@[simp] theorem waitMore_recurring : s.waitMore.recurring = s.recurring := rfl
@[simp] theorem waitMore_bus : s.waitMore.bus = s.bus := rfl
@[simp] theorem waitMore_log : s.waitMore.log = s.log := rfl

@[simp] theorem grant_state (l : BlockLimit) (sep : BitVec 17) : (s.grant l sep).state = .sendingConsecutiveFrames := rfl
@[simp] theorem grant_totalLen (l : BlockLimit) (sep : BitVec 17) : (s.grant l sep).totalLen = s.totalLen := rfl
@[simp] theorem grant_consumed (l : BlockLimit) (sep : BitVec 17) : (s.grant l sep).consumed = s.consumed := rfl
@[simp] theorem grant_seq (l : BlockLimit) (sep : BitVec 17) : (s.grant l sep).seq = s.seq := rfl
@[simp] theorem grant_sepUs (l : BlockLimit) (sep : BitVec 17) : (s.grant l sep).sepUs = sep := rfl
@[simp] theorem grant_granted (l : BlockLimit) (sep : BitVec 17) : (s.grant l sep).granted = true := rfl
@[simp] theorem grant_waitSeen (l : BlockLimit) (sep : BitVec 17) : (s.grant l sep).waitSeen = s.waitSeen := rfl
@[simp] theorem grant_result (l : BlockLimit) (sep : BitVec 17) : (s.grant l sep).result = s.result := rfl
@[simp] theorem grant_txId (l : BlockLimit) (sep : BitVec 17) : (s.grant l sep).txId = s.txId := rfl
@[simp] theorem grant_fcId (l : BlockLimit) (sep : BitVec 17) : (s.grant l sep).fcId = s.fcId := rfl
@[simp] theorem grant_verbose (l : BlockLimit) (sep : BitVec 17) : (s.grant l sep).verbose = s.verbose := rfl
@[simp] theorem grant_len (l : BlockLimit) (sep : BitVec 17) : (s.grant l sep).len = s.len := rfl
@[simp] theorem grant_payload (l : BlockLimit) (sep : BitVec 17) : (s.grant l sep).payload = s.payload := rfl
@[simp] theorem grant_nBs (l : BlockLimit) (sep : BitVec 17) : (s.grant l sep).nBs = s.nBs := rfl
@[simp] theorem grant_sendTimeout (l : BlockLimit) (sep : BitVec 17) : (s.grant l sep).sendTimeout = s.sendTimeout := rfl
@[simp] theorem grant_fcDeadline (l : BlockLimit) (sep : BitVec 17) : (s.grant l sep).fcDeadline = s.fcDeadline := rfl
@[simp] theorem grant_tLast (l : BlockLimit) (sep : BitVec 17) : (s.grant l sep).tLast = s.tLast := rfl
@[simp] theorem grant_now (l : BlockLimit) (sep : BitVec 17) : (s.grant l sep).now = s.now := rfl
@[simp] theorem grant_rxQueue (l : BlockLimit) (sep : BitVec 17) : (s.grant l sep).rxQueue = s.rxQueue := rfl
@[simp] theorem grant_sendAnswers (l : BlockLimit) (sep : BitVec 17) : (s.grant l sep).sendAnswers = s.sendAnswers := rfl
@[simp] theorem grant_inputs (l : BlockLimit) (sep : BitVec 17) : (s.grant l sep).inputs = s.inputs := rfl
@[simp] theorem grant_recurring (l : BlockLimit) (sep : BitVec 17) : (s.grant l sep).recurring = s.recurring := rfl
@[simp] theorem grant_bus (l : BlockLimit) (sep : BitVec 17) : (s.grant l sep).bus = s.bus := rfl
@[simp] theorem grant_log (l : BlockLimit) (sep : BitVec 17) : (s.grant l sep).log = s.log := rfl

@[simp] theorem createSession_state (c : StartCommand) : (s.createSession c).state = if c.payload.length ≤ 7 then .sendingSingleFrame else .sendingFirstFrame := rfl
@[simp] theorem createSession_totalLen (c : StartCommand) : (s.createSession c).totalLen = BitVec.ofNat 12 c.payload.length := rfl
@[simp] theorem createSession_consumed (c : StartCommand) : (s.createSession c).consumed = 0#12 := rfl
@[simp] theorem createSession_seq (c : StartCommand) : (s.createSession c).seq = 1#4 := rfl
@[simp] theorem createSession_bsUnlimited (c : StartCommand) : (s.createSession c).bsUnlimited = true := rfl
@[simp] theorem createSession_bsRem (c : StartCommand) : (s.createSession c).bsRem = s.bsRem := rfl
@[simp] theorem createSession_sepUs (c : StartCommand) : (s.createSession c).sepUs = 0#17 := rfl
@[simp] theorem createSession_granted (c : StartCommand) : (s.createSession c).granted = false := rfl
@[simp] theorem createSession_waitSeen (c : StartCommand) : (s.createSession c).waitSeen = false := rfl
@[simp] theorem createSession_result (c : StartCommand) : (s.createSession c).result = none := rfl
@[simp] theorem createSession_txId (c : StartCommand) : (s.createSession c).txId = c.txId := rfl
@[simp] theorem createSession_fcId (c : StartCommand) : (s.createSession c).fcId = c.fcId := rfl
@[simp] theorem createSession_verbose (c : StartCommand) : (s.createSession c).verbose = c.verbose := rfl
@[simp] theorem createSession_len (c : StartCommand) : (s.createSession c).len = c.payload.length := rfl
@[simp] theorem createSession_payload (c : StartCommand) : (s.createSession c).payload = Memory.ofBytes c.payload := rfl
@[simp] theorem createSession_nBs (c : StartCommand) : (s.createSession c).nBs = s.nBs := rfl
@[simp] theorem createSession_sendTimeout (c : StartCommand) : (s.createSession c).sendTimeout = s.sendTimeout := rfl
@[simp] theorem createSession_fcDeadline (c : StartCommand) : (s.createSession c).fcDeadline = s.fcDeadline := rfl
@[simp] theorem createSession_tLast (c : StartCommand) : (s.createSession c).tLast = s.tLast := rfl
@[simp] theorem createSession_now (c : StartCommand) : (s.createSession c).now = s.now := rfl
@[simp] theorem createSession_rxQueue (c : StartCommand) : (s.createSession c).rxQueue = s.rxQueue := rfl
@[simp] theorem createSession_sendAnswers (c : StartCommand) : (s.createSession c).sendAnswers = s.sendAnswers := rfl
@[simp] theorem createSession_inputs (c : StartCommand) : (s.createSession c).inputs = s.inputs := rfl
@[simp] theorem createSession_recurring (c : StartCommand) : (s.createSession c).recurring = s.recurring := rfl
@[simp] theorem createSession_bus (c : StartCommand) : (s.createSession c).bus = s.bus := rfl
@[simp] theorem createSession_log (c : StartCommand) : (s.createSession c).log = s.log := rfl

@[simp] theorem powerOn_state : s.powerOn.state = State.reset.state := rfl
@[simp] theorem powerOn_totalLen : s.powerOn.totalLen = State.reset.totalLen := rfl
@[simp] theorem powerOn_consumed : s.powerOn.consumed = State.reset.consumed := rfl
@[simp] theorem powerOn_seq : s.powerOn.seq = State.reset.seq := rfl
@[simp] theorem powerOn_bsUnlimited : s.powerOn.bsUnlimited = State.reset.bsUnlimited := rfl
@[simp] theorem powerOn_bsRem : s.powerOn.bsRem = State.reset.bsRem := rfl
@[simp] theorem powerOn_sepUs : s.powerOn.sepUs = State.reset.sepUs := rfl
@[simp] theorem powerOn_granted : s.powerOn.granted = State.reset.granted := rfl
@[simp] theorem powerOn_waitSeen : s.powerOn.waitSeen = State.reset.waitSeen := rfl
@[simp] theorem powerOn_result : s.powerOn.result = State.reset.result := rfl
@[simp] theorem powerOn_txId : s.powerOn.txId = State.reset.txId := rfl
@[simp] theorem powerOn_fcId : s.powerOn.fcId = State.reset.fcId := rfl
@[simp] theorem powerOn_verbose : s.powerOn.verbose = State.reset.verbose := rfl
@[simp] theorem powerOn_len : s.powerOn.len = State.reset.len := rfl
@[simp] theorem powerOn_payload : s.powerOn.payload = State.reset.payload := rfl
@[simp] theorem powerOn_nBs : s.powerOn.nBs = State.reset.nBs := rfl
@[simp] theorem powerOn_sendTimeout : s.powerOn.sendTimeout = State.reset.sendTimeout := rfl
@[simp] theorem powerOn_fcDeadline : s.powerOn.fcDeadline = State.reset.fcDeadline := rfl
@[simp] theorem powerOn_tLast : s.powerOn.tLast = State.reset.tLast := rfl
@[simp] theorem powerOn_now : s.powerOn.now = s.now := rfl
@[simp] theorem powerOn_rxQueue : s.powerOn.rxQueue = s.rxQueue := rfl
@[simp] theorem powerOn_sendAnswers : s.powerOn.sendAnswers = s.sendAnswers := rfl
@[simp] theorem powerOn_inputs : s.powerOn.inputs = s.inputs := rfl
@[simp] theorem powerOn_recurring : s.powerOn.recurring = s.recurring := rfl
@[simp] theorem powerOn_bus : s.powerOn.bus = s.bus := rfl
@[simp] theorem powerOn_log : s.powerOn.log = s.log := rfl

@[simp] theorem afterInput_state : s.afterInput.state = s.state := rfl
@[simp] theorem afterInput_totalLen : s.afterInput.totalLen = s.totalLen := rfl
@[simp] theorem afterInput_consumed : s.afterInput.consumed = s.consumed := rfl
@[simp] theorem afterInput_seq : s.afterInput.seq = s.seq := rfl
@[simp] theorem afterInput_bsUnlimited : s.afterInput.bsUnlimited = s.bsUnlimited := rfl
@[simp] theorem afterInput_bsRem : s.afterInput.bsRem = s.bsRem := rfl
@[simp] theorem afterInput_sepUs : s.afterInput.sepUs = s.sepUs := rfl
@[simp] theorem afterInput_granted : s.afterInput.granted = s.granted := rfl
@[simp] theorem afterInput_waitSeen : s.afterInput.waitSeen = s.waitSeen := rfl
@[simp] theorem afterInput_result : s.afterInput.result = s.result := rfl
@[simp] theorem afterInput_txId : s.afterInput.txId = s.txId := rfl
@[simp] theorem afterInput_fcId : s.afterInput.fcId = s.fcId := rfl
@[simp] theorem afterInput_verbose : s.afterInput.verbose = s.verbose := rfl
@[simp] theorem afterInput_len : s.afterInput.len = s.len := rfl
@[simp] theorem afterInput_payload : s.afterInput.payload = s.payload := rfl
@[simp] theorem afterInput_nBs : s.afterInput.nBs = s.nBs := rfl
@[simp] theorem afterInput_sendTimeout : s.afterInput.sendTimeout = s.sendTimeout := rfl
@[simp] theorem afterInput_fcDeadline : s.afterInput.fcDeadline = s.fcDeadline := rfl
@[simp] theorem afterInput_tLast : s.afterInput.tLast = s.tLast := rfl
@[simp] theorem afterInput_now : s.afterInput.now = s.now + s.nextInput.elapsed := rfl
@[simp] theorem afterInput_rxQueue : s.afterInput.rxQueue = s.rxQueue ++ s.nextInput.arrivals := rfl
@[simp] theorem afterInput_sendAnswers : s.afterInput.sendAnswers = s.sendAnswers := rfl
@[simp] theorem afterInput_inputs : s.afterInput.inputs = s.inputs.tail := rfl
@[simp] theorem afterInput_recurring : s.afterInput.recurring = s.nextRecurring := rfl
@[simp] theorem afterInput_bus : s.afterInput.bus = s.bus := rfl
@[simp] theorem afterInput_log : s.afterInput.log = s.log := rfl

@[simp] theorem grant_bsUnlimited (l : BlockLimit) (sep : BitVec 17) :
    (s.grant l sep).bsUnlimited = (match l with | .unlimited => true | .limit _ => false) := rfl
@[simp] theorem grant_bsRem (l : BlockLimit) (sep : BitVec 17) :
    (s.grant l sep).bsRem = (match l with | .unlimited => s.bsRem | .limit n => n) := rfl

/-- With a listed input the recurring ones wait their turn. -/
theorem nextInput_cons {i : StepInput} {is : List StepInput} (h : s.inputs = i :: is) :
    s.nextInput = i ∧ s.nextRecurring = s.recurring := by
  simp [State.nextInput, State.nextRecurring, h]

/-- With none left, the next of the recurring inputs comes and goes to the end. -/
theorem nextInput_recurring {i : StepInput} {is : List StepInput} (h : s.inputs = []) (hr : s.recurring = i :: is) :
    s.nextInput = i ∧ s.nextRecurring = is ++ [i] := by
  simp [State.nextInput, State.nextRecurring, turn, h, hr]

/-- With nothing left, the outside is quiet and stays so. -/
theorem nextInput_nil (h : s.inputs = []) (hr : s.recurring = []) :
    s.nextInput = StepInput.quiet ∧ s.nextRecurring = [] := by
  simp [State.nextInput, State.nextRecurring, turn, h, hr]

/-- A step brings a listed input, a recurring one, or a quiet one. -/
theorem nextInput_mem : s.nextInput ∈ s.inputs ∨ s.nextInput ∈ s.recurring ∨ s.nextInput = StepInput.quiet := by
  cases h : s.inputs with
  | cons i is => exact .inl (by simp [nextInput_cons s h])
  | nil =>
    cases hr : s.recurring with
    | cons i is => exact .inr (.inl (by simp [nextInput_recurring s h hr]))
    | nil => exact .inr (.inr (nextInput_nil s h hr).1)

/-- The recurring inputs are the same ones after a step. -/
@[simp] theorem mem_nextRecurring (i : StepInput) : i ∈ s.nextRecurring ↔ i ∈ s.recurring := by
  cases h : s.inputs with
  | cons j js => rw [(nextInput_cons s h).2]
  | nil =>
    cases hr : s.recurring with
    | cons j js => rw [(nextInput_recurring s h hr).2]; simp [or_comm]
    | nil => rw [(nextInput_nil s h hr).2]

/-- A send's log line, as an addition to the trace (rules R157, R202). -/
theorem logFailure_eq (r : SendResult) (e : LogEvent) :
    s.logFailure r e = { s with log := s.log ++ if r = .sendFailed then [e] else [] } := by
  cases r <;> simp [State.logFailure, State.record]

@[simp] theorem counted_state : s.counted.state = s.state := rfl
@[simp] theorem counted_totalLen : s.counted.totalLen = s.totalLen := rfl
@[simp] theorem counted_consumed : s.counted.consumed = s.consumed + BitVec.ofNat 12 s.chunkLen := rfl
@[simp] theorem counted_seq : s.counted.seq = s.seq + 1#4 := rfl
@[simp] theorem counted_bsUnlimited : s.counted.bsUnlimited = s.bsUnlimited := rfl
@[simp] theorem counted_bsRem : s.counted.bsRem = (if s.bsUnlimited then s.bsRem else s.bsRem - 1#8) := rfl
@[simp] theorem counted_sepUs : s.counted.sepUs = s.sepUs := rfl
@[simp] theorem counted_granted : s.counted.granted = s.granted := rfl
@[simp] theorem counted_waitSeen : s.counted.waitSeen = s.waitSeen := rfl
@[simp] theorem counted_result : s.counted.result = s.result := rfl
@[simp] theorem counted_txId : s.counted.txId = s.txId := rfl
@[simp] theorem counted_fcId : s.counted.fcId = s.fcId := rfl
@[simp] theorem counted_verbose : s.counted.verbose = s.verbose := rfl
@[simp] theorem counted_len : s.counted.len = s.len := rfl
@[simp] theorem counted_payload : s.counted.payload = s.payload := rfl
@[simp] theorem counted_nBs : s.counted.nBs = s.nBs := rfl
@[simp] theorem counted_sendTimeout : s.counted.sendTimeout = s.sendTimeout := rfl
@[simp] theorem counted_fcDeadline : s.counted.fcDeadline = s.fcDeadline := rfl
@[simp] theorem counted_tLast : s.counted.tLast = s.tLast := rfl
@[simp] theorem counted_now : s.counted.now = s.now := rfl
@[simp] theorem counted_rxQueue : s.counted.rxQueue = s.rxQueue := rfl
@[simp] theorem counted_sendAnswers : s.counted.sendAnswers = s.sendAnswers := rfl
@[simp] theorem counted_inputs : s.counted.inputs = s.inputs := rfl
@[simp] theorem counted_recurring : s.counted.recurring = s.recurring := rfl
@[simp] theorem counted_bus : s.counted.bus = s.bus := rfl
@[simp] theorem counted_log : s.counted.log = s.log := rfl

/-- The three ways `stepCF` goes on after its send (rule R155). -/
theorem afterCf_cases :
    (s.counted.consumed = s.totalLen ∧ s.afterCf = s.counted.finish) ∨
    (s.counted.consumed ≠ s.totalLen ∧ s.bsUnlimited = false ∧ s.bsRem - 1#8 = 0#8 ∧
      s.afterCf = s.counted.enterAwait) ∨
    (s.counted.consumed ≠ s.totalLen ∧ (s.bsUnlimited = true ∨ s.bsRem - 1#8 ≠ 0#8) ∧
      s.afterCf = { s.counted with state := .sendingConsecutiveFrames }) := by
  by_cases h1 : s.counted.consumed = s.counted.totalLen
  · exact .inl ⟨h1, if_pos h1⟩
  · refine .inr ?_
    by_cases h2 : s.counted.bsUnlimited = false ∧ s.counted.bsRem = 0#8
    · have hu : s.bsUnlimited = false := h2.1
      exact .inl ⟨h1, hu, by simpa [hu] using h2.2, (if_neg h1).trans (if_pos h2)⟩
    · refine .inr ⟨h1, ?_, (if_neg h1).trans (if_neg h2)⟩
      cases hu : s.bsUnlimited
      · exact .inr fun hr => h2 (by simp [hu, hr])
      · exact .inl rfl

/-- `stepCF` after its send as one update (rules R154, R155). -/
theorem afterCf_eq :
    s.afterCf =
      { s with
        seq := s.seq + 1#4
        consumed := s.consumed + BitVec.ofNat 12 s.chunkLen
        bsRem := if s.bsUnlimited then s.bsRem else s.bsRem - 1#8
        state :=
          if s.consumed + BitVec.ofNat 12 s.chunkLen = s.totalLen then .done
          else if s.bsUnlimited = false ∧ s.bsRem - 1#8 = 0#8 then .awaitingFlowControl
          else .sendingConsecutiveFrames
        result := if s.consumed + BitVec.ofNat 12 s.chunkLen = s.totalLen then some .success else s.result
        waitSeen :=
          if s.consumed + BitVec.ofNat 12 s.chunkLen ≠ s.totalLen ∧
            s.bsUnlimited = false ∧ s.bsRem - 1#8 = 0#8 then false else s.waitSeen
        fcDeadline :=
          if s.consumed + BitVec.ofNat 12 s.chunkLen ≠ s.totalLen ∧
            s.bsUnlimited = false ∧ s.bsRem - 1#8 = 0#8 then s.now + s.nBs else s.fcDeadline } := by
  unfold State.afterCf State.nextAfterCf State.counted
  by_cases h1 : s.consumed + BitVec.ofNat 12 s.chunkLen = s.totalLen
  · simp [h1, State.finish]
  · cases hu : s.bsUnlimited
    · by_cases h2 : s.bsRem - 1#8 = 0#8 <;> simp [h1, h2, State.enterAwait]
    · simp [h1]

end Sys2Proof.Machine
end

