-- ==== Sys2Proof/Laws/Ops.lean ====
section
/-! SUPPORT. What each shared operation can do, said once: building a frame, a `BusRecv`, a send, and START. -/

namespace Sys2Proof.Machine

/-- `MemRead` answers the payload's bytes of a range inside the session, and nothing else. -/
theorem memRead_ok_iff {s : State} {addr n : Nat} {bs : List Byte} :
    s.memRead addr n = .ok bs ↔
      1 ≤ n ∧ addr + n ≤ s.totalLen.toNat ∧ bs.length = n ∧
        ∀ k, k < n → s.payload.read (addr + k) = bs[k]? := by
  unfold State.memRead
  by_cases h : 1 ≤ n ∧ addr + n ≤ s.totalLen.toNat
  · rw [if_pos h]
    cases hr : s.payload.readRange addr n with
    | none =>
      simp only [reduceCtorEq, false_iff]
      rintro ⟨-, -, hl, hk⟩
      rw [(readRange_eq_some_iff ..).mpr ⟨hl, hk⟩] at hr
      cases hr
    | some bs' =>
      have hb := (readRange_eq_some_iff ..).mp hr
      simp only [Except.ok.injEq]
      constructor
      · rintro rfl; exact ⟨h.1, h.2, hb⟩
      · rintro ⟨-, -, hl, hk⟩
        have := (readRange_eq_some_iff ..).mpr ⟨hl, hk⟩
        rw [hr] at this; exact Option.some.inj this
  · rw [if_neg h]
    simp only [reduceCtorEq, false_iff]
    rintro ⟨h1, h2, -⟩
    exact h ⟨h1, h2⟩

/-- The Single Frame the block builds (rule R144). -/
theorem builtSf_eq {s : State} {p : List Byte} (h : s.memRead 0 s.totalLen.toNat = .ok p)
    (h7 : p.length ≤ 7) : s.builtSf = .ok (encode (.sf p)) := by
  obtain ⟨h1, -, hl, -⟩ := memRead_ok_iff.mp h
  rw [State.builtSf, h]
  simp only
  rw [encodeSingleFrame_eq (by omega) h7]
  rfl

/-- The First Frame the block builds (rule R145). -/
theorem builtFf_eq {s : State} {c : List Byte} (h : s.memRead 0 6 = .ok c) (h8 : 8 ≤ s.totalLen.toNat) :
    s.builtFf = .ok (encode (.ff s.totalLen c)) := by
  obtain ⟨-, -, hl, -⟩ := memRead_ok_iff.mp h
  rw [State.builtFf, h]
  simp only
  rw [encodeFirstFrame_eq h8 hl]
  rfl

/-- The Consecutive Frame the block builds (rule R154). -/
theorem builtCf_eq {s : State} {c : List Byte} (h : s.memRead s.consumed.toNat s.chunkLen = .ok c) :
    s.builtCf = .ok (encode (.cf s.seq (c ++ List.replicate (7 - c.length) 0x00#8))) := by
  obtain ⟨-, -, hl, -⟩ := memRead_ok_iff.mp h
  have h7 : c.length ≤ 7 := by rw [hl]; exact Nat.min_le_left _ _
  rw [State.builtCf, h]
  simp only
  rw [encodeConsecutiveFrame_eq s.seq h7]
  rfl

/-- A frame the block builds has eight bytes, in each sending state. -/
theorem builtSf_length {s : State} {d : List Byte} (h : s.builtSf = .ok d) : d.length = 8 := by
  unfold State.builtSf at h
  split at h
  · rename_i p _
    cases hc : encodeSingleFrame p with
    | error e => simp [hc, codecResult] at h
    | ok d' => simp [hc, codecResult] at h; exact h ▸ encodeSingleFrame_length hc
  · cases h

theorem builtFf_length {s : State} {d : List Byte} (h : s.builtFf = .ok d) : d.length = 8 := by
  unfold State.builtFf at h
  split at h
  · rename_i c _
    cases hc : encodeFirstFrame s.totalLen.toNat c with
    | error e => simp [hc, codecResult] at h
    | ok d' => simp [hc, codecResult] at h; exact h ▸ encodeFirstFrame_length hc
  · cases h

theorem builtCf_length {s : State} {d : List Byte} (h : s.builtCf = .ok d) : d.length = 8 := by
  unfold State.builtCf at h
  split at h
  · rename_i c _
    cases hc : encodeConsecutiveFrame s.seq.toNat c with
    | error e => simp [hc, codecResult] at h
    | ok d' => simp [hc, codecResult] at h; exact h ▸ encodeConsecutiveFrame_length hc
  · cases h

/-- A meaning that goes on only with the frame built goes on with that frame. -/
theorem whenBuilt_next {b : Except Stop (List Byte)} {d : List Byte} {k : Result} {t : State}
    (h : whenBuilt b d k = .next t) : b = .ok d ∧ k = .next t := by
  cases b with
  | error e => cases e <;> simp [whenBuilt, Stop.result] at h
  | ok own =>
    simp only [whenBuilt] at h
    split at h
    · exact ⟨by simp [*], h⟩
    · cases h

@[simp] theorem whenBuilt_self (d : List Byte) (k : Result) : whenBuilt (.ok d) d k = k := by
  simp [whenBuilt]

/-- A send is held until the adapter answers, or goes on with the first answer. -/
theorem emit_next {s t : State} {d : List Byte} {e : LogEvent} {after : State → State}
    (h : s.emit d e after = .next t) :
    (s.sendAnswers = [] ∧ t = s.wait) ∨
      ∃ a rest, s.sendAnswers = a :: rest ∧ t = after ((s.sent d a).logFailure a.result e) := by
  unfold State.emit at h
  split at h
  · cases h; exact .inl ⟨by assumption, rfl⟩
  · cases h; exact .inr ⟨_, _, by assumption, rfl⟩

/-- A received frame's meaning runs in AwaitingFlowControl only. -/
theorem whenAwaiting_next {s t t' : State} (h : s.whenAwaiting t = .next t') :
    s.state = .awaitingFlowControl ∧ t' = t := by
  unfold State.whenAwaiting at h
  split at h
  · cases h; exact ⟨by assumption, rfl⟩
  · cases h

/-- The pacing guard in arithmetic (rule R131). -/
theorem pacingReady_iff (s : State) : s.pacingReady = true ↔ s.tLast + s.sepUs.toNat ≤ s.now :=
  decide_eq_true_iff

/-- A discard changes nothing of a state that awaits Flow Control (rule R148). -/
theorem discard_eq {s : State} (h : s.state = .awaitingFlowControl) : s.discard = s := by
  simp [State.discard, ← h]

/-- What a `BusRecv` can give, with its condition (rule R147). -/
theorem busRecv_cases (s : State) (rn : Bool) :
    (s.busRecv rn = .pending ∧ s.rxQueue = [] ∧ rn = false ∧ s.now < s.fcDeadline) ∨
    (s.busRecv rn = .timedOut (s.recvAnswered none) ∧
      (rn = true ∨ s.fcDeadline < s.now ∨ (s.rxQueue = [] ∧ s.fcDeadline = s.now))) ∨
    (∃ d rest, s.rxQueue = d :: rest ∧ rn = false ∧ s.now ≤ s.fcDeadline ∧
      s.busRecv rn = .frame d { s.recvAnswered (some d) with rxQueue := rest }) := by
  unfold State.busRecv
  cases hq : s.rxQueue with
  | nil =>
    by_cases h : rn = true ∨ s.fcDeadline ≤ s.now
    · simp only [if_pos h, true_and]
      refine .inr (.inl ?_)
      rcases h with h | h
      · exact .inl h
      · rcases Nat.lt_or_eq_of_le h with h | h
        · exact .inr (.inl h)
        · exact .inr (.inr h)
    · simp only [if_neg h, true_and]
      simp only [not_or, Bool.not_eq_true, not_le] at h
      exact .inl h
  | cons d rest =>
    by_cases h : rn = true ∨ s.fcDeadline < s.now
    · simp only [if_pos h, true_and]
      refine .inr (.inl ?_)
      rcases h with h | h
      · exact .inl h
      · exact .inr (.inl h)
    · simp only [if_neg h]
      simp only [not_or, Bool.not_eq_true, not_lt] at h
      exact .inr (.inr ⟨d, rest, rfl, h.1, h.2, rfl⟩)

/-- What START can do when it answers a next state (rules R142, R143). -/
theorem start_next {s t : State} {cmd : StartCommand} (h : s.start cmd = .next t) :
    s.busy = false ∧ 1 ≤ cmd.payload.length ∧
      ((4095 < cmd.payload.length ∧ t = s.raiseError .payloadTooLong .payloadTooLong) ∨
        (cmd.payload.length ≤ 4095 ∧ t = s.createSession cmd)) := by
  unfold State.start at h
  split at h
  · cases h
  · split at h
    · cases h
    · rename_i hb hl
      refine ⟨by simpa using hb, not_lt.mp hl, ?_⟩
      split at h
      · cases h; exact .inl ⟨by assumption, rfl⟩
      · cases h; rename_i hm; exact .inr ⟨by simpa using hm, rfl⟩

end Sys2Proof.Machine
end

