-- ==== Sys2Proof/Laws/PerInstr.lean ====
section
/-! SUPPORT. Statements about every instruction, one lemma per constructor: how many bytes a frame has, and that
the decoder gives back what the encoder wrote. -/

namespace Sys2Proof.Laws.EncodedLength

/-- An emitted frame has eight data bytes, a received one at most eight (rule R70). -/
def Statement (i : Instr) : Prop :=
  i.wellFormed = true →
    (encode i).length ≤ Config.frameLen ∧ (i.direction = .tx → (encode i).length = Config.frameLen)

theorem sf (payload : List Byte) : Statement (.sf payload) := by
  intro h
  simp [Instr.wellFormed] at h
  have := pad8_length (bs := (0x0#4 ++ BitVec.ofNat 4 payload.length : Byte) :: payload) (by simp only [List.length_cons]; omega)
  exact ⟨Nat.le_of_eq this, fun _ => this⟩

theorem ff (totalLength : BitVec 12) (firstChunk : List Byte) : Statement (.ff totalLength firstChunk) := by
  intro h
  simp [Instr.wellFormed] at h
  simp [encode, h]

theorem cf (sn : Nibble) (data : List Byte) : Statement (.cf sn data) := by
  intro h
  simp [Instr.wellFormed] at h
  simp [encode, h]

theorem fcCts (bs stMin : Byte) (rest : List Byte) : Statement (.fcCts bs stMin rest) := by
  intro h
  simp [Instr.wellFormed, restFits] at h
  simp [encode, Instr.direction]; omega

theorem fcWait (bs stMin : Byte) (rest : List Byte) : Statement (.fcWait bs stMin rest) := by
  intro h
  simp [Instr.wellFormed, restFits] at h
  simp [encode, Instr.direction]; omega

theorem fcOvfl (bs stMin : Byte) (rest : List Byte) : Statement (.fcOvfl bs stMin rest) := by
  intro h
  simp [Instr.wellFormed, restFits] at h
  simp [encode, Instr.direction]; omega

theorem fcUnknown3 (bs stMin : Byte) (rest : List Byte) : Statement (.fcUnknown3 bs stMin rest) := by
  intro h
  simp [Instr.wellFormed, restFits] at h
  simp [encode, Instr.direction]; omega

theorem fcUnknown4to7 (f : BitVec 2) (bs stMin : Byte) (rest : List Byte) :
    Statement (.fcUnknown4to7 f bs stMin rest) := by
  intro h
  simp [Instr.wellFormed, restFits] at h
  simp [encode, Instr.direction]; omega

theorem fcUnknown8to15 (f : BitVec 3) (bs stMin : Byte) (rest : List Byte) :
    Statement (.fcUnknown8to15 f bs stMin rest) := by
  intro h
  simp [Instr.wellFormed, restFits] at h
  simp [encode, Instr.direction]; omega

theorem rxType0to1 (t : BitVec 1) (low : Nibble) (rest : List Byte) :
    Statement (.rxType0to1 t low rest) := by
  intro h
  simp [Instr.wellFormed, typedRestFits, restFits] at h
  simp [encode, Instr.direction]; omega

theorem rxType2 (low : Nibble) (rest : List Byte) : Statement (.rxType2 low rest) := by
  intro h
  simp [Instr.wellFormed, typedRestFits, restFits] at h
  simp [encode, Instr.direction]; omega

theorem rxType4to7 (t : BitVec 2) (low : Nibble) (rest : List Byte) :
    Statement (.rxType4to7 t low rest) := by
  intro h
  simp [Instr.wellFormed, typedRestFits, restFits] at h
  simp [encode, Instr.direction]; omega

theorem rxType8to15 (t : BitVec 3) (low : Nibble) (rest : List Byte) :
    Statement (.rxType8to15 t low rest) := by
  intro h
  simp [Instr.wellFormed, typedRestFits, restFits] at h
  simp [encode, Instr.direction]; omega

theorem rxShort (data : List Byte) : Statement (.rxShort data) := by
  intro h
  simp [Instr.wellFormed] at h
  simp [encode, Instr.direction]; omega

end Sys2Proof.Laws.EncodedLength

namespace Sys2Proof.Laws.RoundTrip

/-- Decoding what was encoded gives the instruction back, every operand of it. -/
def Statement (i : Instr) : Prop := i.wellFormed = true → decode i.direction (encode i) = .ok i

theorem ofNat4_toNat {n : Nat} (h : n ≤ 7) : (BitVec.ofNat 4 n).toNat = n := by
  simp; omega

theorem sf (payload : List Byte) : Statement (.sf payload) := by
  intro h
  have hl := (EncodedLength.sf payload h).2 rfl
  simp [Instr.wellFormed] at h
  obtain ⟨b, bs, rfl⟩ := List.exists_cons_of_length_pos (l := payload) (by omega)
  have hn : (BitVec.ofNat 4 (b :: bs).length).toNat = (b :: bs).length := ofNat4_toNat h.2
  generalize hx : BitVec.ofNat 4 (b :: bs).length = x at hn hl
  simp only [encode, hx, pad8, List.cons_append] at hl
  simp only [Instr.direction, decode, decodeTx, encode, hx, pad8, List.cons_append]
  rw [if_neg (by rw [hl]; exact not_not.mpr rfl)]
  simp only [hiNibble_append, loNibble_append, decodeSf, ↓reduceIte]
  rw [hn, if_neg (by simp at h ⊢; omega), ← List.cons_append, List.take_left, List.drop_left,
    if_pos (by simp)]

/-- A 12-bit length is its high nibble and its low byte (rules R56, R76). -/
theorem ffDl_append (l : BitVec 12) :
    (l.extractLsb' 8 4 ++ l.extractLsb' 0 8 : BitVec 12) = l := by
  apply BitVec.eq_of_toNat_eq
  have := l.isLt
  rw [BitVec.toNat_append, Nat.shiftLeft_eq]
  simp only [BitVec.extractLsb'_toNat, Nat.shiftRight_eq_div_pow]
  rw [Nat.or_comm, ← Nat.shiftLeft_eq, Nat.or_comm, ← Nat.shiftLeft_add_eq_or_of_lt (by omega), Nat.shiftLeft_eq]
  omega

theorem ff (totalLength : BitVec 12) (firstChunk : List Byte) : Statement (.ff totalLength firstChunk) := by
  intro h
  simp [Instr.wellFormed] at h
  have hj := ffDl_append totalLength
  simp [Instr.direction, decode, decodeTx, encode, h.2, decodeFf, hj]
  omega

theorem cf (sn : Nibble) (data : List Byte) : Statement (.cf sn data) := by
  intro h
  simp [Instr.wellFormed] at h
  obtain ⟨b, bs, rfl⟩ := List.exists_cons_of_length_pos (l := data) (by omega)
  simp at h
  simp [Instr.direction, decode, decodeTx, encode, h]

/-- A received Flow Control frame is decoded by its flow status (rule R89). -/
theorem decode_fc {fs : Nibble} {bs st : Byte} {rest : List Byte} (h : restFits 3 rest = true) :
    decode .rx ((0x3#4 ++ fs) :: bs :: st :: rest) = .ok (decodeFc fs bs st rest) := by
  simp [restFits] at h
  simp [decode, decodeRx]
  omega

theorem fcCts (bs stMin : Byte) (rest : List Byte) : Statement (.fcCts bs stMin rest) :=
  fun h => decode_fc (fs := 0x0#4) h

theorem fcWait (bs stMin : Byte) (rest : List Byte) : Statement (.fcWait bs stMin rest) :=
  fun h => decode_fc (fs := 0x1#4) h

theorem fcOvfl (bs stMin : Byte) (rest : List Byte) : Statement (.fcOvfl bs stMin rest) :=
  fun h => decode_fc (fs := 0x2#4) h

theorem fcUnknown3 (bs stMin : Byte) (rest : List Byte) : Statement (.fcUnknown3 bs stMin rest) :=
  fun h => decode_fc (fs := 0x3#4) h

theorem decodeFc_4to7 (f : BitVec 2) (bs st : Byte) (rest : List Byte) :
    decodeFc (0b01#2 ++ f) bs st rest = .fcUnknown4to7 f bs st rest := by
  have : ∀ f : BitVec 2, (0b01#2 ++ f : Nibble) ≠ 0x0#4 ∧ (0b01#2 ++ f : Nibble) ≠ 0x1#4 ∧
      (0b01#2 ++ f : Nibble) ≠ 0x2#4 ∧ (0b01#2 ++ f : Nibble) ≠ 0x3#4 ∧
      (0b01#2 ++ f : Nibble).extractLsb' 3 1 ≠ 0b1#1 ∧ (0b01#2 ++ f : Nibble).extractLsb' 0 2 = f := by
    decide
  obtain ⟨h0, h1, h2, h3, h4, h5⟩ := this f
  rw [decodeFc, if_neg h0, if_neg h1, if_neg h2, if_neg h3, if_neg h4, h5]

theorem decodeFc_8to15 (f : BitVec 3) (bs st : Byte) (rest : List Byte) :
    decodeFc (0b1#1 ++ f) bs st rest = .fcUnknown8to15 f bs st rest := by
  have : ∀ f : BitVec 3, (0b1#1 ++ f : Nibble) ≠ 0x0#4 ∧ (0b1#1 ++ f : Nibble) ≠ 0x1#4 ∧
      (0b1#1 ++ f : Nibble) ≠ 0x2#4 ∧ (0b1#1 ++ f : Nibble) ≠ 0x3#4 ∧
      (0b1#1 ++ f : Nibble).extractLsb' 3 1 = 0b1#1 ∧ (0b1#1 ++ f : Nibble).extractLsb' 0 3 = f := by
    decide
  obtain ⟨h0, h1, h2, h3, h4, h5⟩ := this f
  rw [decodeFc, if_neg h0, if_neg h1, if_neg h2, if_neg h3, if_pos h4, h5]

theorem fcUnknown4to7 (f : BitVec 2) (bs stMin : Byte) (rest : List Byte) :
    Statement (.fcUnknown4to7 f bs stMin rest) := fun h => by
  simpa only [encode, Instr.direction, decodeFc_4to7] using decode_fc (fs := 0b01#2 ++ f) h

theorem fcUnknown8to15 (f : BitVec 3) (bs stMin : Byte) (rest : List Byte) :
    Statement (.fcUnknown8to15 f bs stMin rest) := fun h => by
  simpa only [encode, Instr.direction, decodeFc_8to15] using decode_fc (fs := 0b1#1 ++ f) h

/-- A received frame of three or more bytes that is not Flow Control is decoded by its type (rule R83). -/
theorem decode_notFc {type low : Nibble} {rest : List Byte} (h : typedRestFits rest = true)
    (ht : type ≠ 0x3#4) : decode .rx ((type ++ low) :: rest) = .ok (decodeNotFc type low rest) := by
  simp [typedRestFits, restFits] at h
  match rest, h with
  | b1 :: b2 :: tail, h =>
    simp at h
    simp [decode, decodeRx, ht]
    omega
  | [_], h => simp at h
  | [], h => simp at h

theorem rxType0to1 (t : BitVec 1) (low : Nibble) (rest : List Byte) :
    Statement (.rxType0to1 t low rest) := fun h => by
  have : ∀ t : BitVec 1, (0b000#3 ++ t : Nibble) ≠ 0x3#4 ∧ (0b000#3 ++ t : Nibble) ≠ 0x2#4 ∧
      (0b000#3 ++ t : Nibble).extractLsb' 3 1 ≠ 0b1#1 ∧ (0b000#3 ++ t : Nibble).extractLsb' 2 1 ≠ 0b1#1 ∧
      (0b000#3 ++ t : Nibble).extractLsb' 0 1 = t := by decide
  obtain ⟨h3, h2, ha, hb, hc⟩ := this t
  have := decode_notFc (low := low) h h3
  rwa [decodeNotFc, if_neg ha, if_neg hb, if_neg h2, hc] at this

theorem rxType2 (low : Nibble) (rest : List Byte) : Statement (.rxType2 low rest) := fun h => by
  have := decode_notFc (type := 0x2#4) (low := low) h (by decide)
  rwa [decodeNotFc, if_neg (by decide), if_neg (by decide), if_pos rfl] at this

theorem rxType4to7 (t : BitVec 2) (low : Nibble) (rest : List Byte) :
    Statement (.rxType4to7 t low rest) := fun h => by
  have : ∀ t : BitVec 2, (0b01#2 ++ t : Nibble) ≠ 0x3#4 ∧
      (0b01#2 ++ t : Nibble).extractLsb' 3 1 ≠ 0b1#1 ∧ (0b01#2 ++ t : Nibble).extractLsb' 2 1 = 0b1#1 ∧
      (0b01#2 ++ t : Nibble).extractLsb' 0 2 = t := by decide
  obtain ⟨h3, ha, hb, hc⟩ := this t
  have := decode_notFc (low := low) h h3
  rwa [decodeNotFc, if_neg ha, if_pos hb, hc] at this

theorem rxType8to15 (t : BitVec 3) (low : Nibble) (rest : List Byte) :
    Statement (.rxType8to15 t low rest) := fun h => by
  have : ∀ t : BitVec 3, (0b1#1 ++ t : Nibble) ≠ 0x3#4 ∧
      (0b1#1 ++ t : Nibble).extractLsb' 3 1 = 0b1#1 ∧ (0b1#1 ++ t : Nibble).extractLsb' 0 3 = t := by decide
  obtain ⟨h3, ha, hc⟩ := this t
  have := decode_notFc (low := low) h h3
  rwa [decodeNotFc, if_pos ha, hc] at this

theorem rxShort (data : List Byte) : Statement (.rxShort data) := fun h => by
  simp [Instr.wellFormed] at h
  match data, h with
  | [], _ => rfl
  | [_], _ => rfl
  | [_, _], _ => rfl
  | _ :: _ :: _ :: _, h => simp at h; omega

end Sys2Proof.Laws.RoundTrip
end

