-- ==== Sys2Proof/Laws/Step.lean ====
section
/-! SUPPORT. What an instruction, a step of the block and a step of the machine can do, said once as inversions; and
which frame a state fetches. Invariants are derived from these, not from the step function. -/

namespace Sys2Proof.Machine

/-! ## Instructions -/

/-- The state after a send in which the adapter answered `a`, before the step's own updates. -/
def State.sentLogged (s : State) (d : List Byte) (a : SendAnswer) (e : LogEvent) : State :=
  (s.sent d a).logFailure a.result e

theorem execSf_next {p : List Byte} {s t : State} (h : execSf p s = .next t) :
    s.state = .sendingSingleFrame ∧ s.builtSf = .ok (encode (.sf p)) ∧
      ((s.sendAnswers = [] ∧ t = s.wait) ∨ ∃ a rest, s.sendAnswers = a :: rest ∧
        t = (s.sentLogged (encode (.sf p)) a .sendFailedSf).afterSf) := by
  unfold execSf at h
  split at h
  · obtain ⟨hb, he⟩ := whenBuilt_next h
    exact ⟨by assumption, hb, emit_next he⟩
  · cases h

theorem execFf_next {l : BitVec 12} {c : List Byte} {s t : State} (h : execFf l c s = .next t) :
    s.state = .sendingFirstFrame ∧ s.builtFf = .ok (encode (.ff l c)) ∧
      ((s.sendAnswers = [] ∧ t = s.wait) ∨ ∃ a rest, s.sendAnswers = a :: rest ∧
        t = (s.sentLogged (encode (.ff l c)) a .sendFailedFf).afterFf) := by
  unfold execFf at h
  split at h
  · obtain ⟨hb, he⟩ := whenBuilt_next h
    exact ⟨by assumption, hb, emit_next he⟩
  · cases h

theorem execCf_next {sn : Nibble} {data : List Byte} {s t : State} (h : execCf sn data s = .next t) :
    s.state = .sendingConsecutiveFrames ∧ s.builtCf = .ok (encode (.cf sn data)) ∧
      (((s.pacingReady = false ∨ s.sendAnswers = []) ∧ t = s.wait) ∨
        ∃ a rest, s.pacingReady = true ∧ s.sendAnswers = a :: rest ∧
          t = (s.sentLogged (encode (.cf sn data)) a (.sendFailedCf s.seq)).afterCf) := by
  unfold execCf at h
  split at h
  · obtain ⟨hb, he⟩ := whenBuilt_next h
    refine ⟨by assumption, hb, ?_⟩
    by_cases hp : s.pacingReady = true
    · rw [if_pos hp] at he
      obtain ⟨h1, h2⟩ | ⟨a, rest, h1, h2⟩ := emit_next he
      · exact .inl ⟨.inr h1, h2⟩
      · exact .inr ⟨a, rest, hp, h1, h2⟩
    · rw [if_neg hp] at he
      cases he
      exact .inl ⟨.inl (by simpa using hp), rfl⟩
  · cases h

/-- What a received frame can do to the state it is delivered in (rules R148 to R152). -/
def RxEffect (s t : State) : Prop :=
  t = s.discard ∨ t = s.waitMore ∨ t = s.overflow ∨ ∃ bs st, t = s.grant (blockLimit bs) (interpret st)

/-- An instruction that runs: an emitting one in its own state, or a received one in AwaitingFlowControl. -/
theorem exec_next {i : Instr} {s t : State} (h : exec i s = .next t) :
    (i.direction = .tx ∧ (s.state = .sendingSingleFrame ∨ s.state = .sendingFirstFrame ∨
      s.state = .sendingConsecutiveFrames)) ∨
    (i.direction = .rx ∧ s.state = .awaitingFlowControl ∧ RxEffect s t) := by
  cases i with
  | sf p => exact .inl ⟨rfl, .inl (execSf_next h).1⟩
  | ff l c => exact .inl ⟨rfl, .inr (.inl (execFf_next h).1)⟩
  | cf sn d => exact .inl ⟨rfl, .inr (.inr (execCf_next h).1)⟩
  | fcCts bs st r =>
    obtain ⟨h1, h2⟩ := whenAwaiting_next h
    exact .inr ⟨rfl, h1, .inr (.inr (.inr ⟨bs, st, h2⟩))⟩
  | fcWait bs st r =>
    obtain ⟨h1, h2⟩ := whenAwaiting_next h
    exact .inr ⟨rfl, h1, .inr (.inl h2)⟩
  | fcOvfl bs st r =>
    obtain ⟨h1, h2⟩ := whenAwaiting_next h
    exact .inr ⟨rfl, h1, .inr (.inr (.inl h2))⟩
  | fcUnknown3 | fcUnknown4to7 | fcUnknown8to15 | rxType0to1 | rxType2 | rxType4to7 | rxType8to15 | rxShort =>
    obtain ⟨h1, h2⟩ := whenAwaiting_next h
    exact .inr ⟨rfl, h1, .inl h2⟩

/-! ## A step of the block -/

/-- What one step of the block can do (rule R140): one constructor per row of the edge table, and the waits. -/
inductive BlockMove (s t : State) : Prop where
  /-- Nothing but the clock (rule R189). -/
  | waits (h : t = s.wait)
  /-- `stepSF` (rule R144). -/
  | single (d : List Byte) (a : SendAnswer) (rest : List SendAnswer)
      (hs : s.state = .sendingSingleFrame) (hd : s.builtSf = .ok d) (ha : s.sendAnswers = a :: rest)
      (ht : t = (s.sentLogged d a .sendFailedSf).afterSf)
  /-- `stepFF` (rule R145). -/
  | first (d : List Byte) (a : SendAnswer) (rest : List SendAnswer)
      (hs : s.state = .sendingFirstFrame) (hd : s.builtFf = .ok d) (ha : s.sendAnswers = a :: rest)
      (ht : t = (s.sentLogged d a .sendFailedFf).afterFf)
  /-- `stepCF`, its guard true (rule R154). -/
  | consecutive (d : List Byte) (a : SendAnswer) (rest : List SendAnswer)
      (hs : s.state = .sendingConsecutiveFrames) (hd : s.builtCf = .ok d) (hp : s.pacingReady = true)
      (ha : s.sendAnswers = a :: rest)
      (ht : t = (s.sentLogged d a (.sendFailedCf s.seq)).afterCf)
  /-- `timeout()` (rule R153). -/
  | timesOut (hs : s.state = .awaitingFlowControl) (ht : t = (s.recvAnswered none).timeout)
  /-- A delivered frame (rules R148 to R152). -/
  | receives (d : List Byte) (rest : List (List Byte)) (hs : s.state = .awaitingFlowControl)
      (hq : s.rxQueue = d :: rest) (hw : s.now ≤ s.fcDeadline)
      (ht : RxEffect { s.recvAnswered (some d) with rxQueue := rest } t)

/-- The one frame of a sending state runs as that state's instruction. -/
theorem runFrame_next {dir : Direction} {d : List Byte} {s t : State} (h : runFrame dir d s = .next t) :
    ∃ i, decode dir d = .ok i ∧ exec i s = .next t := by
  unfold runFrame at h
  split at h
  · exact ⟨_, by assumption, h⟩
  · cases h

/-- Inversion of the block's step: every next state comes from one of the moves above. -/
theorem blockStep_next {rn : Bool} {s t : State} (h : blockStep rn s = .next t) : BlockMove s t := by
  unfold blockStep fetch at h
  cases hs : s.state with
  | idle | done | error k => simp only [hs] at h; cases h; exact .waits rfl
  | sendingSingleFrame =>
    simp only [hs] at h
    cases hb : s.builtSf with
    | error e => simp only [hb, fetchBuilt] at h; cases e <;> cases h
    | ok d =>
      simp only [hb, fetchBuilt] at h
      obtain ⟨i, -, he⟩ := runFrame_next h
      cases i with
      | sf p =>
        obtain ⟨-, hd, ⟨-, ht⟩ | ⟨a, rest, ha, ht⟩⟩ := execSf_next he
        · exact .waits ht
        · exact .single _ a rest hs hd ha ht
      | ff l c => exact absurd (execFf_next he).1 (by simp [hs])
      | cf sn c => exact absurd (execCf_next he).1 (by simp [hs])
      | _ => exact absurd (whenAwaiting_next he).1 (by simp [hs])
  | sendingFirstFrame =>
    simp only [hs] at h
    cases hb : s.builtFf with
    | error e => simp only [hb, fetchBuilt] at h; cases e <;> cases h
    | ok d =>
      simp only [hb, fetchBuilt] at h
      obtain ⟨i, -, he⟩ := runFrame_next h
      cases i with
      | ff l c =>
        obtain ⟨-, hd, ⟨-, ht⟩ | ⟨a, rest, ha, ht⟩⟩ := execFf_next he
        · exact .waits ht
        · exact .first _ a rest hs hd ha ht
      | sf p => exact absurd (execSf_next he).1 (by simp [hs])
      | cf sn c => exact absurd (execCf_next he).1 (by simp [hs])
      | _ => exact absurd (whenAwaiting_next he).1 (by simp [hs])
  | sendingConsecutiveFrames =>
    simp only [hs] at h
    cases hb : s.builtCf with
    | error e => simp only [hb, fetchBuilt] at h; cases e <;> cases h
    | ok d =>
      simp only [hb, fetchBuilt] at h
      obtain ⟨i, -, he⟩ := runFrame_next h
      cases i with
      | cf sn c =>
        obtain ⟨-, hd, ⟨-, ht⟩ | ⟨a, rest, hp, ha, ht⟩⟩ := execCf_next he
        · exact .waits ht
        · exact .consecutive _ a rest hs hd hp ha ht
      | sf p => exact absurd (execSf_next he).1 (by simp [hs])
      | ff l c => exact absurd (execFf_next he).1 (by simp [hs])
      | _ => exact absurd (whenAwaiting_next he).1 (by simp [hs])
  | awaitingFlowControl =>
    simp only [hs] at h
    obtain ⟨hr, -⟩ | ⟨hr, -⟩ | ⟨d, rest, hq, -, hw, hr⟩ := busRecv_cases s rn
    · simp only [hr] at h; cases h; exact .waits rfl
    · simp only [hr] at h; cases h; exact .timesOut hs rfl
    · simp only [hr] at h
      obtain ⟨i, -, he⟩ := runFrame_next h
      obtain ⟨-, hc⟩ | ⟨-, -, hx⟩ := exec_next he
      · simp [hs] at hc
      · exact .receives d rest hs hq hw hx

/-! ## A step of the machine -/

/-- Inversion of the step: the host's event, or else a move of the block (rules R13, R140). -/
theorem step_next {s t : State} (h : step s = .next t) :
    (∃ cmd, s.nextInput.host = some (.start cmd) ∧ s.afterInput.start cmd = .next t) ∨
    (s.nextInput.host = some .reset ∧ t = s.afterInput.powerOn) ∨
    (s.nextInput.host = none ∧ BlockMove s.afterInput t) := by
  unfold step at h
  split at h
  · exact .inl ⟨_, by assumption, h⟩
  · cases h; exact .inr (.inl ⟨by assumption, rfl⟩)
  · exact .inr (.inr ⟨by assumption, blockStep_next h⟩)

/-! ## A received frame always runs -/

/-- Every frame the bus can deliver decodes to a received instruction (rules R52, R89). -/
theorem decode_rx_total {d : List Byte} (h : d.length ≤ 8) :
    ∃ i, decode .rx d = .ok i ∧ i.direction = .rx := by
  simp only [decode, decodeRx]
  rw [if_neg (by simp; omega)]
  match d with
  | b0 :: b1 :: b2 :: rest =>
    simp only
    split
    · refine ⟨_, rfl, ?_⟩; unfold decodeFc; split_ifs <;> rfl
    · refine ⟨_, rfl, ?_⟩; unfold decodeNotFc; split_ifs <;> rfl
  | [] => exact ⟨_, rfl, rfl⟩
  | [_] => exact ⟨_, rfl, rfl⟩
  | [_, _] => exact ⟨_, rfl, rfl⟩

/-- A received instruction completes in AwaitingFlowControl (rules R148 to R152). -/
theorem exec_rx {i : Instr} (hd : i.direction = .rx) {s : State} (hs : s.state = .awaitingFlowControl) :
    ∃ t, exec i s = .next t ∧ RxEffect s t := by
  have : ∃ t, exec i s = .next t := by
    cases i <;> first | exact ⟨_, if_pos hs⟩ | nomatch hd
  obtain ⟨t, ht⟩ := this
  obtain ⟨h, -⟩ | ⟨-, -, h⟩ := exec_next ht
  · rw [hd] at h; cases h
  · exact ⟨t, ht, h⟩

/-! ## Reading the inputs -/

/-- The inputs of a step keep the invariant. -/
theorem Inv.afterInput {s : State} (h : Inv s) : Inv s.afterInput := by
  have hin : ∀ d ∈ s.nextInput.arrivals, d.length ≤ 8 := by
    intro d hd
    rcases nextInput_mem s with hm | hm | hm
    · exact h.arrivals_fit _ hm d hd
    · exact h.recurring_fit _ hm d hd
    · simp [hm, StepInput.quiet] at hd
  refine { h with queue_fits := ?_, arrivals_fit := ?_, recurring_fit := ?_, last_past := ?_, window := ?_ }
  · intro d hd
    rcases List.mem_append.mp hd with hd | hd
    · exact h.queue_fits d hd
    · exact hin d hd
  · intro i hi
    exact h.arrivals_fit i (List.mem_of_mem_tail hi)
  · intro i hi
    exact h.recurring_fit i ((mem_nextRecurring s i).mp hi)
  · exact Nat.le_trans h.last_past (Nat.le_add_right _ _)
  · intro hs
    have := h.window hs
    simp; omega

theorem busy_of_state {s : State} {m : MState} (h : s.state = m) : s.busy = m.busy := by
  simp [State.busy, h]

end Sys2Proof.Machine
end

