-- ==== Sys2Proof/Laws/Progress.lean ====
section
/-! SUPPORT. What a block step answers in a state that meets the invariant, and how runs compose; for statements that
something happens, where Laws/Step.lean says what can happen. -/

namespace Sys2Proof.Machine

/-- The data bytes of a Consecutive Frame that carries this chunk (rule R74). -/
abbrev cfData (c : List Byte) : List Byte := c ++ List.replicate (7 - c.length) 0x00#8

/-- Inside a running session every range of the payload can be read (rule R51). -/
theorem memRead_of_inv {s : State} (hi : Inv s) (hb : s.busy = true) {addr n : Nat} (h1 : 1 ≤ n)
   (h : addr + n ≤ s.totalLen.toNat) : ∃ bs, s.memRead addr n = .ok bs := by
  obtain ⟨hl, -⟩ := hi.busy_len hb
  obtain ⟨bs, hbs, hbl⟩ := readRange_of_addresses hi.payload_listed (hl ▸ h)
  exact ⟨bs, by unfold State.memRead; rw [if_pos ⟨h1, h⟩, hbs]⟩

/-- A good state builds its Single Frame, and the decoder reads it back. -/
theorem builtSf_of_inv {s : State} (hi : Inv s) (hs : s.state = .sendingSingleFrame) :
    ∃ p, s.builtSf = .ok (encode (.sf p)) ∧ decode .tx (encode (.sf p)) = .ok (.sf p) ∧
      s.memRead 0 s.totalLen.toNat = .ok p := by
  obtain ⟨hl, h1⟩ := hi.busy_len (by simp [busy_of_state hs, MState.busy])
  obtain ⟨h7, -⟩ := hi.single hs
  obtain ⟨p, hp⟩ := memRead_of_inv hi (by simp [busy_of_state hs, MState.busy])
    (addr := 0) (n := s.totalLen.toNat) (by omega) (by omega)
  obtain ⟨-, -, hpl, -⟩ := memRead_ok_iff.mp hp
  exact ⟨p, builtSf_eq hp (by omega), Sys2Proof.Laws.RoundTrip.sf p (by simp [Instr.wellFormed]; omega), hp⟩

/-- A good state builds its First Frame, and the decoder reads it back. -/
theorem builtFf_of_inv {s : State} (hi : Inv s) (hs : s.state = .sendingFirstFrame) :
    ∃ c, s.builtFf = .ok (encode (.ff s.totalLen c)) ∧
      decode .tx (encode (.ff s.totalLen c)) = .ok (.ff s.totalLen c) ∧ s.memRead 0 6 = .ok c := by
  obtain ⟨hl, h1⟩ := hi.busy_len (by simp [busy_of_state hs, MState.busy])
  obtain ⟨h8, -⟩ := hi.first hs
  obtain ⟨p, hp⟩ := memRead_of_inv hi (by simp [busy_of_state hs, MState.busy])
    (addr := 0) (n := 6) (by omega) (by omega)
  obtain ⟨-, -, hpl, -⟩ := memRead_ok_iff.mp hp
  exact ⟨p, builtFf_eq hp (by omega), Sys2Proof.Laws.RoundTrip.ff _ p (by simp [Instr.wellFormed]; omega), hp⟩

/-- A good state builds its Consecutive Frame, and the decoder reads it back. -/
theorem builtCf_of_inv {s : State} (hi : Inv s) (hs : s.state = .sendingConsecutiveFrames) :
    ∃ c, c.length = s.chunkLen ∧ s.builtCf = .ok (encode (.cf s.seq (cfData c))) ∧
      decode .tx (encode (.cf s.seq (cfData c))) = .ok (.cf s.seq (cfData c)) ∧
      s.memRead s.consumed.toNat s.chunkLen = .ok c := by
  obtain ⟨hl, h1⟩ := hi.busy_len (by simp [busy_of_state hs, MState.busy])
  obtain ⟨h8, hlt, -⟩ := hi.midway (.inr hs)
  have hc : s.chunkLen = min 7 (s.totalLen.toNat - s.consumed.toNat) := rfl
  obtain ⟨p, hp⟩ := memRead_of_inv hi (by simp [busy_of_state hs, MState.busy])
    (addr := s.consumed.toNat) (n := s.chunkLen) (by omega) (by omega)
  obtain ⟨-, -, hpl, -⟩ := memRead_ok_iff.mp hp
  exact ⟨p, hpl, builtCf_eq hp, Sys2Proof.Laws.RoundTrip.cf _ _ (by simp [cfData, Instr.wellFormed]; omega), hp⟩


/-- The block step of SendingSingleFrame in a good state: held, or the send (rule R144). -/
theorem blockStep_sf {s : State} (hi : Inv s) (hs : s.state = .sendingSingleFrame) (rn : Bool) :
    ∃ p, s.memRead 0 s.totalLen.toNat = .ok p ∧ s.builtSf = .ok (encode (.sf p)) ∧
      (s.sendAnswers = [] → blockStep rn s = .next s.wait) ∧
      ∀ a rest, s.sendAnswers = a :: rest → blockStep rn s =
        .next ((s.sentLogged (encode (.sf p)) a .sendFailedSf).afterSf) := by
  obtain ⟨p, hb, hd, hm⟩ := builtSf_of_inv hi hs
  refine ⟨p, hm, hb, ?_⟩
  simp only [blockStep, fetch, hs, hb, fetchBuilt, runFrame, hd, exec, execSf, whenBuilt_self, if_true, State.emit]
  constructor
  · intro h; simp only [h]
  · intro a r h; simp only [h]; rfl

/-- The block step of SendingFirstFrame in a good state: held, or the send (rule R145). -/
theorem blockStep_ff {s : State} (hi : Inv s) (hs : s.state = .sendingFirstFrame) (rn : Bool) :
    ∃ p, s.memRead 0 6 = .ok p ∧ s.builtFf = .ok (encode (.ff s.totalLen p)) ∧
      (s.sendAnswers = [] → blockStep rn s = .next s.wait) ∧
      ∀ a rest, s.sendAnswers = a :: rest → blockStep rn s =
        .next ((s.sentLogged (encode (.ff s.totalLen p)) a .sendFailedFf).afterFf) := by
  obtain ⟨p, hb, hd, hm⟩ := builtFf_of_inv hi hs
  refine ⟨p, hm, hb, ?_⟩
  simp only [blockStep, fetch, hs, hb, fetchBuilt, runFrame, hd, exec, execFf, whenBuilt_self, if_true, State.emit]
  constructor
  · intro h; simp only [h]
  · intro a r h; simp only [h]; rfl

/-- The block step of SendingConsecutiveFrames in a good state: held, or the send (rule R154). -/
theorem blockStep_cf {s : State} (hi : Inv s) (hs : s.state = .sendingConsecutiveFrames) (rn : Bool) :
    ∃ c, s.memRead s.consumed.toNat s.chunkLen = .ok c ∧
      s.builtCf = .ok (encode (.cf s.seq (cfData c))) ∧
      (s.pacingReady = false ∨ s.sendAnswers = [] → blockStep rn s = .next s.wait) ∧
      ∀ a rest, s.pacingReady = true → s.sendAnswers = a :: rest → blockStep rn s =
        .next ((s.sentLogged (encode (.cf s.seq (cfData c))) a (.sendFailedCf s.seq)).afterCf) := by
  obtain ⟨p, -, hb, hd, hm⟩ := builtCf_of_inv hi hs
  refine ⟨p, hm, hb, ?_⟩
  simp only [blockStep, fetch, hs, hb, fetchBuilt, runFrame, hd, exec, execCf, whenBuilt_self, if_true, State.emit]
  constructor
  · intro h; split
    · simp_all
    · rfl
  · intro a r h h'; simp only [h, h', if_true]; rfl

/-- The block step of AwaitingFlowControl in a good state: a wait, a timeout, or the oldest frame (rule R147). -/
theorem blockStep_await {s : State} (hi : Inv s) (hs : s.state = .awaitingFlowControl) (rn : Bool) :
    (s.rxQueue = [] ∧ s.now < s.fcDeadline ∧ blockStep rn s = .next s.wait) ∨
    blockStep rn s = .next (s.recvAnswered none).timeout ∨
    ∃ d rest t, s.rxQueue = d :: rest ∧ blockStep rn s = .next t ∧
      RxEffect { s.recvAnswered (some d) with rxQueue := rest } t := by
  simp only [blockStep, fetch, hs]
  rcases busRecv_cases s rn with ⟨h, hq, -, hn⟩ | ⟨h, -⟩ | ⟨d, r, hq, -, -, h⟩
  · simp only [h]; exact .inl ⟨hq, hn, trivial⟩
  · simp only [h]; exact .inr (.inl trivial)
  · simp only [h]
    obtain ⟨i, hd, hdir⟩ := decode_rx_total (hi.queue_fits d (by simp [hq]))
    obtain ⟨t, ht, he⟩ := exec_rx hdir (s := { s.recvAnswered (some d) with rxQueue := r }) hs
    exact .inr (.inr ⟨d, r, t, hq, by simp only [runFrame, hd, ht], he⟩)

/-! ## Runs -/

/-- With no inputs left, listed or recurring, a step is a block step at the present reading. -/
theorem step_nil {s : State} (h : s.inputs = []) (hr : s.recurring = []) : step s = blockStep false s := by
  obtain ⟨hn, hn'⟩ := nextInput_nil s h hr
  have ha : s.afterInput = s := by
    simp only [State.afterInput, hn, hn', h, StepInput.quiet, Nat.add_zero, List.append_nil, List.tail_nil]
    cases s; cases h; cases hr; rfl
  simp only [step, hn, StepInput.quiet, ha]

theorem run_succ {s u : State} (h : step s = .next u) (k : Nat) : core.run (k + 1) s = core.run k u := by
  have h : core.step s = .next u := h
  simp only [Host.Core.run, h]

/-- A run goes on from where its first part ended. -/
theorem run_add {s u : State} {k : Nat} (h : core.run k s = .next u) (m : Nat) :
    core.run (k + m) s = core.run m u := by
  induction k generalizing s with
  | zero => cases h; rw [Nat.zero_add]
  | succ k ih =>
    cases hs : step s with
    | next v =>
      rw [run_succ hs] at h
      rw [show k + 1 + m = (k + m) + 1 by omega, run_succ hs]
      exact ih h
    | fault r =>
      have hs : core.step s = .fault r := hs
      simp only [Host.Core.run, hs] at h
      cases h
    | refused r =>
      have hs : core.step s = .refused r := hs
      simp only [Host.Core.run, hs] at h
      cases h

end Sys2Proof.Machine
end

