-- ==== Sys2Proof/Tests/Slice0.lean ====
section
/-! SUPPORT. Tests and witnesses. Expected words and results come from spec/30_encoding.md and from the vectors (V…),
programs (P…) and examples (S…) of spec/95_test_vectors.md, named at each test. -/

namespace Sys2Proof.Tests

open Sys2Proof Sys2Proof.Machine

/-! ## WellFormed refuses (the `condition` column of the opcode table) -/

theorem test_wf_sf_empty : (Instr.sf []).wellFormed = false := by decide
theorem test_wf_sf_eight : (Instr.sf (List.replicate 8 0#8)).wellFormed = false := by decide
theorem test_wf_ff_length : (Instr.ff 7#12 (List.replicate 6 0#8)).wellFormed = false := by decide
theorem test_wf_ff_chunk : (Instr.ff 8#12 (List.replicate 5 0#8)).wellFormed = false := by decide
theorem test_wf_cf_data : (Instr.cf 1#4 (List.replicate 6 0#8)).wellFormed = false := by decide
theorem test_wf_fc_rest :
    (Instr.fcCts 0#8 0#8 (List.replicate 6 0#8)).wellFormed = false ∧
    (Instr.fcWait 0#8 0#8 (List.replicate 6 0#8)).wellFormed = false ∧
    (Instr.fcOvfl 0#8 0#8 (List.replicate 6 0#8)).wellFormed = false ∧
    (Instr.fcUnknown3 0#8 0#8 (List.replicate 6 0#8)).wellFormed = false ∧
    (Instr.fcUnknown4to7 0#2 0#8 0#8 (List.replicate 6 0#8)).wellFormed = false ∧
    (Instr.fcUnknown8to15 0#3 0#8 0#8 (List.replicate 6 0#8)).wellFormed = false := by decide
theorem test_wf_rx_too_short :
    (Instr.rxType0to1 0#1 0#4 [0#8]).wellFormed = false ∧ (Instr.rxType2 0#4 [0#8]).wellFormed = false ∧
    (Instr.rxType4to7 0#2 0#4 [0#8]).wellFormed = false ∧
    (Instr.rxType8to15 0#3 0#4 [0#8]).wellFormed = false := by decide
theorem test_wf_rx_too_long :
    (Instr.rxType0to1 0#1 0#4 (List.replicate 8 0#8)).wellFormed = false ∧
    (Instr.rxType2 0#4 (List.replicate 8 0#8)).wellFormed = false ∧
    (Instr.rxType4to7 0#2 0#4 (List.replicate 8 0#8)).wellFormed = false ∧
    (Instr.rxType8to15 0#3 0#4 (List.replicate 8 0#8)).wellFormed = false := by decide
theorem test_wf_rx_short_of_three : (Instr.rxShort [0#8, 0#8, 0#8]).wellFormed = false := by decide

/-! ## Decoding: one word per constructor, written out from the table -/

/-- What a decoder gives, as an option. -/
def decoded (dir : Direction) (d : List Byte) : Option Instr := (decode dir d).toOption

/-- Why a decoder turns bytes away. -/
def turnedAway (dir : Direction) (d : List Byte) : Option DecodeError :=
  match decode dir d with
  | .ok _ => none
  | .error e => some e

/-- V1: `0000 0011`, then three payload bytes and the padding. -/
theorem test_decode_sf : decoded .tx [0x03#8, 0x11#8, 0x22#8, 0x33#8, 0#8, 0#8, 0#8, 0#8] =
    some (.sf [0x11#8, 0x22#8, 0x33#8]) := by decide
/-- V15: `0001 0001 0010 0011`: `FF_DL` = 0x123, high nibble first (rule R56). -/
theorem test_decode_ff : decoded .tx [0x11#8, 0x23#8, 0xDE#8, 0xAD#8, 0xBE#8, 0xEF#8, 0x00#8, 0x01#8] =
    some (.ff 0x123#12 [0xDE#8, 0xAD#8, 0xBE#8, 0xEF#8, 0x00#8, 0x01#8]) := by decide
/-- V21: `0010 1111`. -/
theorem test_decode_cf : decoded .tx [0x2F#8, 0xAA#8, 0#8, 0#8, 0#8, 0#8, 0#8, 0#8] =
    some (.cf 15#4 [0xAA#8, 0#8, 0#8, 0#8, 0#8, 0#8, 0#8]) := by decide
/-- V72: `0011 0000`, `BS` = 0xFF, `STmin` = 0x7F. -/
theorem test_decode_fcCts : decoded .rx [0x30#8, 0xFF#8, 0x7F#8] = some (.fcCts 0xFF#8 0x7F#8 []) := by decide
/-- V75: `0011 0001`. -/
theorem test_decode_fcWait : decoded .rx [0x31#8, 0x05#8, 0x7F#8] = some (.fcWait 0x05#8 0x7F#8 []) := by decide
/-- V76: `0011 0010`. -/
theorem test_decode_fcOvfl : decoded .rx [0x32#8, 0#8, 0#8] = some (.fcOvfl 0#8 0#8 []) := by decide
/-- V77: `0011 0011`. -/
theorem test_decode_fcUnknown3 : decoded .rx [0x33#8, 0#8, 0#8] = some (.fcUnknown3 0#8 0#8 []) := by decide
/-- V122, P9: `0011 0101`, flow status 5. -/
theorem test_decode_fcUnknown4to7 :
    decoded .rx [0x35#8, 0x08#8, 0x0A#8] = some (.fcUnknown4to7 0b01#2 0x08#8 0x0A#8 []) := by decide
/-- V78: `0011 1111`, flow status 15. -/
theorem test_decode_fcUnknown8to15 :
    decoded .rx [0x3F#8, 0x08#8, 0x0A#8] = some (.fcUnknown8to15 0b111#3 0x08#8 0x0A#8 []) := by decide
/-- V83: a received First Frame, `0001 0000`. -/
theorem test_decode_rxType0to1 :
    decoded .rx [0x10#8, 0x14#8, 0#8, 1#8, 2#8, 3#8, 4#8, 5#8] =
      some (.rxType0to1 1#1 0#4 [0x14#8, 0#8, 1#8, 2#8, 3#8, 4#8, 5#8]) := by decide
/-- V81: a received Consecutive Frame, `0010 0001`. -/
theorem test_decode_rxType2 : decoded .rx [0x21#8, 0#8, 0#8, 0#8, 0#8, 0#8, 0#8, 0#8] =
    some (.rxType2 1#4 [0#8, 0#8, 0#8, 0#8, 0#8, 0#8, 0#8]) := by decide
/-- V84: `0100 0000`. -/
theorem test_decode_rxType4to7 :
    decoded .rx [0x40#8, 0#8, 0#8] = some (.rxType4to7 0b00#2 0#4 [0#8, 0#8]) := by decide
/-- V85: `1111 0000`. -/
theorem test_decode_rxType8to15 : decoded .rx [0xF0#8, 0#8, 0#8, 0#8, 0#8, 0#8, 0#8, 0#8] =
    some (.rxType8to15 0b111#3 0#4 [0#8, 0#8, 0#8, 0#8, 0#8, 0#8, 0#8]) := by decide
/-- V79 and V80: two bytes and none. -/
theorem test_decode_rxShort :
    decoded .rx [0x30#8, 0#8] = some (.rxShort [0x30#8, 0#8]) ∧ decoded .rx [] = some (.rxShort []) := by decide

/-- The table's word numbering: byte 0 in the top bits, and trailing zero bytes are shown by `nbits`. -/
theorem test_table_word :
    decodeTableWord 24 0x350000 = some (.fcUnknown4to7 0b01#2 0#8 0#8 []) ∧
    decodeTableWord 0 0 = some (.rxShort []) ∧
    decodeTableWord 64 0x07010203040506FF =
      some (.sf [1#8, 2#8, 3#8, 4#8, 5#8, 6#8, 0xFF#8]) := by decide

/-- Rule R86: what the block never emits is turned away, each by its name. -/
theorem test_turned_away :
    turnedAway .tx [0x01#8] = some .notEightBytes ∧
    turnedAway .tx (List.replicate 8 0#8) = some .sfLengthOutOfRange ∧
    turnedAway .tx [0x08#8, 0#8, 0#8, 0#8, 0#8, 0#8, 0#8, 0#8] = some .sfLengthOutOfRange ∧
    turnedAway .tx [0x06#8, 1#8, 1#8, 1#8, 1#8, 1#8, 1#8, 0xAA#8] = some .sfPaddingNotZero ∧
    turnedAway .tx [0x10#8, 0x07#8, 0#8, 0#8, 0#8, 0#8, 0#8, 0#8] = some .ffLengthOutOfRange ∧
    turnedAway .tx [0x30#8, 0#8, 0#8, 0#8, 0#8, 0#8, 0#8, 0#8] = some .typeNeverEmitted ∧
    turnedAway .rx (List.replicate 9 0#8) = some .tooManyBytes := by decide

/-! ## FrameCodec and FlowControlInterpreter -/

/-- What an encoder gives, as an option. -/
def coded (r : Except CodecFailure (List Byte)) : Option (List Byte) := r.toOption

/-- V2, V5, V6. -/
theorem test_encodeSingleFrame :
    coded (encodeSingleFrame [0xFF#8]) = some [0x01#8, 0xFF#8, 0#8, 0#8, 0#8, 0#8, 0#8, 0#8] ∧
    coded (encodeSingleFrame (List.replicate 8 0#8)) = none ∧ coded (encodeSingleFrame []) = none := by decide
/-- V13, V14, V16, V17. -/
theorem test_encodeFirstFrame :
    coded (encodeFirstFrame 256 (List.replicate 6 0xAA#8)) = some (0x11#8 :: 0x00#8 :: List.replicate 6 0xAA#8) ∧
    coded (encodeFirstFrame 4095 (List.replicate 6 0#8)) = some (0x1F#8 :: 0xFF#8 :: List.replicate 6 0#8) ∧
    coded (encodeFirstFrame 7 (List.replicate 6 0#8)) = none ∧
    coded (encodeFirstFrame 4096 (List.replicate 6 0#8)) = none := by decide
/-- V22, V24, V25. -/
theorem test_encodeConsecutiveFrame :
    coded (encodeConsecutiveFrame 0 [1#8, 2#8, 3#8]) = some [0x20#8, 1#8, 2#8, 3#8, 0#8, 0#8, 0#8, 0#8] ∧
    coded (encodeConsecutiveFrame 5 []) = some [0x25#8, 0#8, 0#8, 0#8, 0#8, 0#8, 0#8, 0#8] ∧
    coded (encodeConsecutiveFrame 16 []) = none := by decide
/-- V61: the reference decoder. -/
theorem test_decodeConsecutiveFrame :
    decodeConsecutiveFrame [0x2F#8, 0xAA#8, 0#8, 0#8, 0#8, 0#8, 0#8, 0#8] =
      some (15, [0xAA#8, 0#8, 0#8, 0#8, 0#8, 0#8, 0#8]) := by decide
/-- V90 to V101, with S3, S4 and S5. -/
theorem test_interpret :
    [0x00#8, 0x01#8, 0x05#8, 0x7F#8, 0x80#8, 0xC8#8, 0xF0#8, 0xF1#8, 0xF3#8, 0xF9#8, 0xFA#8, 0xFF#8].map interpret =
      [0#17, 1000#17, 5000#17, 127000#17, 0#17, 0#17, 0#17, 100#17, 300#17, 900#17, 0#17, 0#17] := by decide
/-- §2.5 and §2.7. -/
theorem test_classify_blockLimit :
    [0#4, 1#4, 2#4, 3#4, 15#4].map classify = [.clearToSend, .wait, .overflow, .unknown, .unknown] ∧
    [0#8, 1#8, 255#8].map blockLimit = [.unlimited, .limit 1#8, .limit 255#8] := by decide
/-- V73, V75, V76, V78, V79. -/
theorem test_decideFrame :
    decideFrame [0x30#8, 0x08#8, 0x0A#8, 0xAA#8] = .grant (.limit 8#8) 10000#17 ∧
    decideFrame [0x31#8, 0x05#8, 0x7F#8] = .waitMore ∧ decideFrame [0x32#8, 0#8, 0#8] = .abort ∧
    decideFrame [0x3F#8, 0x08#8, 0x0A#8] = .ignore ∧ decideFrame [0x30#8, 0#8] = .ignore := by decide
/-- S10: the status codes. -/
theorem test_status_codes :
    [Status.success, .payloadTooLong, .timeoutInitial, .overflowInitial, .timeoutMidTransfer,
      .overflowMidTransfer, .timeoutResolvingWait].map Status.code = [0#3, 2#3, 3#3, 4#3, 5#3, 6#3, 7#3] := by
  decide
/-- §2.10. -/
theorem test_status_by_flags :
    [timeoutStatus false false, timeoutStatus false true, timeoutStatus true false, timeoutStatus true true,
      overflowStatus false, overflowStatus true].map Status.code = [3#3, 3#3, 5#3, 7#3, 4#3, 6#3] := by decide
/-- V32, V34, V38, V43: the number of Consecutive Frames. -/
theorem test_cfCount : [8, 13, 14, 112, 4095].map cfCount = [1, 1, 2, 16, 585] := by decide

/-! ## One step of each instruction -/

/-- The state after a step, if there is one. -/
def after (r : Result) : Option State :=
  match r with
  | .next t => some t
  | _ => none

/-- The refusal of a step, if it is one. -/
def refusalOf (r : Result) : Option Refusal :=
  match r with
  | .refused w => some w
  | _ => none

/-- The session of P2 and P8 with `n` payload bytes, byte i = i, in the state `m`; every send is answered `r`. -/
def session (m : MState) (n consumed : Nat) (sn : Nibble) (r : SendResult) : State :=
  { State.reset with
    state := m, totalLen := BitVec.ofNat 12 n, consumed := BitVec.ofNat 12 consumed, seq := sn, bsUnlimited := true
    txId := 0x7E0#11, fcId := 0x7E8#11, len := n
    payload := Memory.ofBytes ((List.range n).map (BitVec.ofNat 8))
    sendAnswers := [{ result := r, took := 2 }, { result := r, took := 3 }] }

/-- A session after a grant of `n` frames with separation time `sep`. -/
def granted (total consumed : Nat) (sn : Nibble) (n : Byte) (sep : BitVec 17) : State :=
  { session .sendingConsecutiveFrames total consumed sn .ok with
    granted := true, bsUnlimited := false, bsRem := n, sepUs := sep }

/-- A session that awaits Flow Control, its window open until 1 000 000. -/
def awaiting (g w : Bool) : State :=
  { session .awaitingFlowControl 20 6 1#4 .ok with granted := g, waitSeen := w, fcDeadline := 1000000 }

/-- Rule R144: the session ends with status 0 and the frame is on the bus. -/
theorem test_sf :
    (after (exec (.sf [0#8, 1#8, 2#8]) (session .sendingSingleFrame 3 0 1#4 .ok))).map
      (fun t => (t.state, t.status, t.consumed, t.bus)) =
    some (.done, some 0#3, 3#12,
      [.send 0 0x7E0#11 [0x03#8, 0#8, 1#8, 2#8, 0#8, 0#8, 0#8, 0#8] .ok]) := by decide
/-- Rule R140: a Single Frame has no edge in `Idle`. -/
theorem test_sf_idle : refusalOf (exec (.sf [0#8]) State.reset) = some .noEdge := by decide
/-- P2 and V120: the First Frame, and the window from the return of its send. -/
theorem test_ff :
    (after (exec (.ff 20#12 [0#8, 1#8, 2#8, 3#8, 4#8, 5#8]) (session .sendingFirstFrame 20 0 1#4 .ok))).map
      (fun t => (t.state, t.fcDeadline, t.tLast, sendsOf t.bus)) =
    some (.awaitingFlowControl, 1000002, 2, [[0x10#8, 0x14#8, 0#8, 1#8, 2#8, 3#8, 4#8, 5#8]]) := by decide
/-- The block emits only the frame it builds (rule R145). -/
theorem test_ff_other :
    refusalOf (exec (.ff 21#12 [0#8, 1#8, 2#8, 3#8, 4#8, 5#8]) (session .sendingFirstFrame 20 0 1#4 .ok)) =
      some .notTheFrameBuilt := by decide
/-- P8: the first Consecutive Frame fails to send; the counters move all the same and one event is logged. -/
theorem test_cf_failed :
    (after (exec (.cf 1#4 [6#8, 7#8, 8#8, 9#8, 10#8, 11#8, 12#8])
      (session .sendingConsecutiveFrames 20 6 1#4 .sendFailed))).map
      (fun t => (t.state, t.consumed, t.seq, t.log)) =
    some (.sendingConsecutiveFrames, 13#12, 2#4, [.sendFailedCf 1#4]) := by decide
/-- P15: after sequence number 15 comes 0. -/
theorem test_cf_wrap :
    (after (exec (.cf 15#4 [104#8, 105#8, 106#8, 107#8, 108#8, 109#8, 110#8]) (granted 112 104 15#4 9#8 0#17))).map
      (fun t => (t.seq, t.bsRem, t.state)) = some (0#4, 8#8, .sendingConsecutiveFrames) := by decide
/-- P3: the first grant. -/
theorem test_fcCts :
    (after (exec (.fcCts 0x02#8 0xF3#8 []) (awaiting false true))).map
      (fun t => (t.state, t.bsUnlimited, t.bsRem, t.sepUs, t.granted)) =
    some (.sendingConsecutiveFrames, false, 2#8, 300#17, true) := by decide
/-- P9: an unlimited grant with a reserved code. -/
theorem test_fcCts_reserved :
    (after (exec (.fcCts 0x00#8 0x80#8 []) (awaiting false true))).map (fun t => (t.bsUnlimited, t.sepUs)) =
    some (true, 0#17) := by decide
/-- V121: Wait at 900 000 gives the deadline 1 900 000. -/
theorem test_fcWait :
    (after (exec (.fcWait 0#8 0#8 []) { awaiting false false with now := 900000 })).map
      (fun t => (t.fcDeadline, t.waitSeen)) = some (1900000, true) := by decide
/-- P4 and P12. -/
theorem test_fcOvfl :
    (after (exec (.fcOvfl 0#8 0#8 []) (awaiting true false))).map (fun t => (t.state, t.status)) =
      some (.error .flowControlOverflow, some 6#3) ∧
    (after (exec (.fcOvfl 0#8 0#8 []) (awaiting false true))).map State.status = some (some 4#3) := by decide
/-- P9: an unknown flow status is discarded. -/
theorem test_fcUnknown :
    after (exec (.fcUnknown3 0#8 0#8 []) (awaiting true false)) = some (awaiting true false) ∧
    after (exec (.fcUnknown4to7 1#2 8#8 0x0A#8 []) (awaiting true false)) = some (awaiting true false) ∧
    after (exec (.fcUnknown8to15 7#3 8#8 0x0A#8 []) (awaiting true false)) = some (awaiting true false) := by
  decide
/-- P9: a frame that is not Flow Control is discarded. -/
theorem test_rxNotFc :
    after (exec (.rxType0to1 0#1 3#4 [0#8, 0#8]) (awaiting true false)) = some (awaiting true false) ∧
    after (exec (.rxType2 1#4 [0#8, 0#8]) (awaiting true false)) = some (awaiting true false) ∧
    after (exec (.rxType4to7 0#2 0#4 [0#8, 0#8]) (awaiting true false)) = some (awaiting true false) ∧
    after (exec (.rxType8to15 7#3 0#4 [0#8, 0#8]) (awaiting true false)) = some (awaiting true false) ∧
    after (exec (.rxShort [0x30#8, 0#8]) (awaiting true false)) = some (awaiting true false) := by decide

/-! ## Steps of the machine -/

/-- A state with this input for its next step. -/
def given (s : State) (elapsed : Nat) (host : Option HostEvent) (arrivals : List (List Byte)) (recvNone : Bool) :
    State :=
  { s with inputs := [{ elapsed := elapsed, host := host, arrivals := arrivals, recvNone := recvNone }] }

/-- A START with this payload. -/
def command (payload : List Byte) : StartCommand :=
  { txId := 0x7E0#11, fcId := 0x7E8#11, verbose := true, payload := payload }

/-- P1: START of three bytes. -/
theorem test_step_start :
    (after (step (given State.reset 7 (some (.start (command [0x11#8, 0x22#8, 0x33#8]))) [] false))).map
      (fun t => (t.state, t.totalLen, t.payload, t.now)) =
    some (.sendingSingleFrame, 3#12, [(0, 0x11#8), (1, 0x22#8), (2, 0x33#8)], 7) := by decide
/-- V110: the guard is false one microsecond early and true at 1 005 000. -/
theorem test_pacing :
    State.pacingReady { granted 20 6 1#4 3#8 5000#17 with tLast := 1000000, now := 1004999 } = false ∧
    State.pacingReady { granted 20 6 1#4 3#8 5000#17 with tLast := 1000000, now := 1005000 } = true := by decide
/-- P5: nothing arrives before 1 000 000, so the window ends with status 3. -/
theorem test_step_timeout :
    (after (step (given (awaiting false false) 1000000 none [] false))).map (fun t => (t.state, t.status, t.bus)) =
    some (.error .flowControlTimeout, some 3#3, [.recv 1000000 0x7E8#11 0 none]) := by decide
/-- A frame that has arrived is consumed by the step that runs it. -/
theorem test_step_receive :
    (after (step (given (awaiting false false) 5 none [[0x30#8, 0x01#8, 0x00#8], [0x32#8, 0#8, 0#8]] false))).map
      (fun t => (t.state, t.bsRem, t.rxQueue)) =
    some (.sendingConsecutiveFrames, 1#8, [[0x32#8, 0#8, 0#8]]) := by decide
/-- Rule R52: nine bytes are no frame. -/
theorem test_step_nine_bytes :
    refusalOf (step (given (awaiting false false) 0 none [List.replicate 9 0#8] false)) =
      some (.undecodable .tooManyBytes) := by decide
/-- A table word runs as the first instruction after reset. -/
theorem test_withFetchWord :
    (after (step (State.reset.withFetchWord 64 0x0311223300000000))).map (fun t => (t.state, sendsOf t.bus)) =
      some (.done, [[0x03#8, 0x11#8, 0x22#8, 0x33#8, 0#8, 0#8, 0#8, 0#8]]) ∧
    (after (step (State.reset.withFetchWord 24 0x300300))).map (fun t => (t.state, t.bsRem)) =
      some (.sendingConsecutiveFrames, 3#8) := by decide

/-! ## Witnesses: a state and operands that meet the hypotheses of each statement of Obligations.lean -/

/-- A state with an empty bus record meets the invariant's clause about it. -/
theorem sent_full_nil {s : State} (h : s.bus = []) : ∀ e ∈ s.bus, e.full := by
  intro e he; rw [h] at he; cases he

theorem inv_single : Inv (session .sendingSingleFrame 7 0 1#4 .ok) where
  payload_wf := by decide
  payload_listed := by decide
  queue_fits := by decide
  arrivals_fit := by decide
  recurring_fit := by decide
  sent_full := sent_full_nil rfl
  last_past := by decide
  window := by decide
  result_none := by decide
  result_done := by decide
  result_error := fun k h => by cases h
  consumed_le := by decide
  busy_len := by decide
  single := by decide
  first := by decide
  midway := fun h => by rcases h with h | h <;> cases h
  countdown := by decide
  separation := ⟨0#8, by decide⟩

theorem inv_first : Inv (session .sendingFirstFrame 8 0 1#4 .ok) where
  payload_wf := by decide
  payload_listed := by decide
  queue_fits := by decide
  arrivals_fit := by decide
  recurring_fit := by decide
  sent_full := sent_full_nil rfl
  last_past := by decide
  window := by decide
  result_none := by decide
  result_done := by decide
  result_error := fun k h => by cases h
  consumed_le := by decide
  busy_len := by decide
  single := by decide
  first := by decide
  midway := fun h => by rcases h with h | h <;> cases h
  countdown := by decide
  separation := ⟨0#8, by decide⟩

theorem inv_granted : Inv (granted 21 6 1#4 2#8 300#17) where
  payload_wf := by decide
  payload_listed := by decide
  queue_fits := by decide
  arrivals_fit := by decide
  recurring_fit := by decide
  sent_full := sent_full_nil rfl
  last_past := by decide
  window := by decide
  result_none := by decide
  result_done := by decide
  result_error := fun k h => by cases h
  consumed_le := by decide
  busy_len := by decide
  single := by decide
  first := by decide
  midway := fun _ => ⟨by decide, by decide, 0, by decide, by decide⟩
  countdown := by decide
  separation := ⟨0xF3#8, by decide⟩

theorem inv_awaiting : Inv (awaiting true false) where
  payload_wf := by decide
  payload_listed := by decide
  queue_fits := by decide
  arrivals_fit := by decide
  recurring_fit := by decide
  sent_full := sent_full_nil rfl
  last_past := by decide
  window := by decide
  result_none := by decide
  result_done := by decide
  result_error := fun k h => by cases h
  consumed_le := by decide
  busy_len := by decide
  single := by decide
  first := by decide
  midway := fun _ => ⟨by decide, by decide, 0, by decide, by decide⟩
  countdown := by decide
  separation := ⟨0#8, by decide⟩

/-- After an error, with one answer per frame of an 8-byte transfer, a START as the next input, and a grant that
arrives with it. -/
def beforeStart : State :=
  { given State.reset 0 (some (.start (command (List.replicate 8 0xAB#8)))) [[0x30#8, 0#8, 0xF9#8]] false with
    state := .error .payloadTooLong, result := some .payloadTooLong
    sendAnswers := [{ result := .sendFailed, took := 9 }, { result := .ok, took := 1 }] }

theorem inv_beforeStart : Inv beforeStart where
  payload_wf := by decide
  payload_listed := by decide
  queue_fits := by decide
  arrivals_fit := by decide
  recurring_fit := by decide
  sent_full := sent_full_nil rfl
  last_past := by decide
  window := by decide
  result_none := by decide
  result_done := by decide
  result_error := fun k h => by cases h; exact ⟨_, rfl, rfl⟩
  consumed_le := by decide
  busy_len := by decide
  single := by decide
  first := by decide
  midway := fun h => by rcases h with h | h <;> cases h
  countdown := by decide
  separation := ⟨0#8, by decide⟩

/-- Every row at the least and the greatest of its operands. -/
theorem witness_DecodeOfEncodeIsIdentity :
    [Instr.sf [0#8], .sf (List.replicate 7 0xFF#8), .ff 8#12 (List.replicate 6 0#8),
      .ff 4095#12 (List.replicate 6 0#8), .cf 0#4 (List.replicate 7 0#8), .cf 15#4 (List.replicate 7 0#8),
      .fcCts 0#8 0#8 [], .fcCts 255#8 255#8 (List.replicate 5 0#8), .fcWait 0#8 0#8 [],
      .fcWait 0#8 0#8 (List.replicate 5 0#8), .fcOvfl 0#8 0#8 [],
      .fcOvfl 0#8 0#8 (List.replicate 5 0#8)].all Instr.wellFormed = true ∧
    [Instr.fcUnknown3 0#8 0#8 (List.replicate 5 0#8), .fcUnknown4to7 3#2 0#8 0#8 [],
      .fcUnknown8to15 7#3 0#8 0#8 [], .rxType0to1 1#1 15#4 [0#8, 0#8],
      .rxType0to1 0#1 0#4 (List.replicate 7 0#8), .rxType2 0#4 [0#8, 0#8], .rxType4to7 3#2 0#4 [0#8, 0#8],
      .rxType8to15 7#3 0#4 [0#8, 0#8], .rxShort [], .rxShort [0#8, 0#8]].all Instr.wellFormed = true := by decide

theorem witness_EncodeOfDecodeIsIdentity :
    decode .tx [0x01#8, 0xFF#8, 0#8, 0#8, 0#8, 0#8, 0#8, 0#8] = .ok (.sf [0xFF#8]) ∧
    decode .rx [0x3F#8, 0x08#8, 0x0A#8] = .ok (.fcUnknown8to15 7#3 0x08#8 0x0A#8 []) := ⟨rfl, rfl⟩

/-- One byte 0 for each clause, at both ends of its range; no byte 0 meets two of them. -/
theorem witness_ReceptionDecoderFollowsProcedure :
    ([0x30#8, 0x00#8] : List Byte).length < 3 ∧ ([] : List Byte).length < 3 ∧
    (List.replicate 5 0#8).length ≤ 5 ∧ ([] : List Byte).length ≤ 5 ∧
    (0x2F#8).toNat / 16 ≠ 3 ∧ (0x40#8).toNat / 16 ≠ 3 ∧
    (0x30#8).toNat = 0x30 ∧ (0x31#8).toNat = 0x31 ∧ (0x32#8).toNat = 0x32 ∧
    (0x33#8).toNat / 16 = 3 ∧ 3 ≤ (0x33#8).toNat % 16 ∧
    (0x3F#8).toNat / 16 = 3 ∧ 3 ≤ (0x3F#8).toNat % 16 := by decide

theorem witness_ReceivedFrameActsAsDecided :
    (awaiting true false).state = .awaitingFlowControl ∧
    decode .rx [0x30#8, 0xFF#8, 0x7F#8] = .ok (.fcCts 0xFF#8 0x7F#8 []) ∧
    decode .rx [0x31#8, 0#8, 0#8] = .ok (.fcWait 0#8 0#8 []) ∧
    decode .rx [0x32#8, 0#8, 0#8] = .ok (.fcOvfl 0#8 0#8 []) ∧
    decode .rx [0x33#8, 0#8, 0#8] = .ok (.fcUnknown3 0#8 0#8 []) ∧
    decode .rx [] = .ok (.rxShort []) := ⟨rfl, rfl, rfl, rfl, rfl, rfl⟩

/-- The least and the greatest operands of each encoder; for `CodecRoundTrip` and `EncodersGiveTheirTypes`. -/
theorem witness_CodecRoundTrip :
    (8 ≤ 8 ∧ 8 ≤ 4095) ∧ (8 ≤ 4095 ∧ 4095 ≤ 4095) ∧ (List.replicate 6 0#8).length = 6 ∧
    15 ≤ 15 ∧ (List.replicate 7 0#8).length ≤ 7 ∧ ([] : List Byte).length ≤ 7 ∧
    1 ≤ ([0#8] : List Byte).length ∧ 1 ≤ (List.replicate 7 0#8).length := by decide

/-- The frames built in the three sending states, and a frame that arrives at the deadline. -/
theorem witness_StepRunsDecodedInstruction :
    (hostQuiet (session .sendingSingleFrame 1 0 1#4 .ok) ∧
      (session .sendingSingleFrame 1 0 1#4 .ok).afterInput.builtSf =
        .ok [0x01#8, 0#8, 0#8, 0#8, 0#8, 0#8, 0#8, 0#8] ∧
      decode .tx [0x01#8, 0#8, 0#8, 0#8, 0#8, 0#8, 0#8, 0#8] = .ok (.sf [0#8])) ∧
    (hostQuiet (session .sendingFirstFrame 8 0 1#4 .ok) ∧
      (session .sendingFirstFrame 8 0 1#4 .ok).afterInput.builtFf =
        .ok [0x10#8, 0x08#8, 0#8, 1#8, 2#8, 3#8, 4#8, 5#8] ∧
      decode .tx [0x10#8, 0x08#8, 0#8, 1#8, 2#8, 3#8, 4#8, 5#8] =
        .ok (.ff 8#12 [0#8, 1#8, 2#8, 3#8, 4#8, 5#8])) ∧
    (hostQuiet (granted 7 6 1#4 1#8 0#17) ∧
      (granted 7 6 1#4 1#8 0#17).afterInput.builtCf =
        .ok [0x21#8, 6#8, 0#8, 0#8, 0#8, 0#8, 0#8, 0#8] ∧
      decode .tx [0x21#8, 6#8, 0#8, 0#8, 0#8, 0#8, 0#8, 0#8] =
        .ok (.cf 1#4 [6#8, 0#8, 0#8, 0#8, 0#8, 0#8, 0#8])) ∧
    (let s := given (awaiting true false) 1000000 none [[0x31#8, 0#8, 0#8]] false;
      hostQuiet s ∧ s.state = .awaitingFlowControl ∧ s.rxQueue ++ s.nextInput.arrivals = [[0x31#8, 0#8, 0#8]] ∧
      s.nextInput.recvNone = false ∧ s.now + s.nextInput.elapsed ≤ s.fcDeadline ∧
      decode .rx [0x31#8, 0#8, 0#8] = .ok (.fcWait 0#8 0#8 [])) :=
  ⟨⟨rfl, rfl, rfl⟩, ⟨rfl, rfl, rfl⟩, ⟨rfl, rfl, rfl⟩, rfl, rfl, rfl, rfl, by decide, rfl⟩

theorem command_length (n : Nat) : (command (List.replicate n 0#8)).payload.length = n :=
  List.length_replicate

/-- START with the shortest and the longest payload; also for `StartBeginsTheFrameSequence`. -/
theorem witness_StartCreatesSession :
    (given State.reset 0 (some (.start (command [0#8]))) [] false).nextInput.host =
      some (.start (command [0#8])) ∧ State.reset.busy = false ∧
    1 ≤ (command [0#8]).payload.length ∧ (command [0#8]).payload.length ≤ 4095 ∧
    1 ≤ (command (List.replicate 4095 0#8)).payload.length ∧
    (command (List.replicate 4095 0#8)).payload.length ≤ 4095 :=
  ⟨rfl, rfl, by decide, by decide, by rw [command_length]; decide, by rw [command_length]⟩

theorem witness_OverlongStartGivesStatusTwo :
    (given State.reset 0 (some (.start (command (List.replicate 4096 0#8)))) [] false).nextInput.host =
      some (.start (command (List.replicate 4096 0#8))) ∧ State.reset.busy = false ∧
    4095 < (command (List.replicate 4096 0#8)).payload.length := ⟨rfl, rfl, by rw [command_length]; decide⟩

theorem witness_StartRefusedWhenBusyOrEmpty :
    (given (awaiting true false) 0 (some (.start (command [0#8]))) [] false).nextInput.host =
      some (.start (command [0#8])) ∧ (awaiting true false).busy = true ∧
    (given State.reset 0 (some (.start (command []))) [] false).nextInput.host = some (.start (command [])) ∧
    State.reset.busy = false ∧ (command []).payload = [] := ⟨rfl, rfl, rfl, rfl, rfl⟩

theorem witness_ResetEventGivesPowerOnState :
    (given (awaiting true false) 3 (some .reset) [[0#8]] false).nextInput.host = some .reset := rfl

theorem witness_SingleFrameIsSent :
    (session .sendingSingleFrame 1 0 1#4 .sendFailed).state = .sendingSingleFrame ∧
    1 ≤ ([0#8] : List Byte).length ∧ ([0#8] : List Byte).length ≤ 7 ∧
    (session .sendingSingleFrame 1 0 1#4 .sendFailed).totalLen.toNat = ([0#8] : List Byte).length ∧
    (∀ k, k < ([0#8] : List Byte).length →
      (session .sendingSingleFrame 1 0 1#4 .sendFailed).payload.read k = [0#8][k]?) ∧
    (session .sendingSingleFrame 1 0 1#4 .sendFailed).sendAnswers =
      [{ result := .sendFailed, took := 2 }, { result := .sendFailed, took := 3 }] := by decide

theorem witness_FirstFrameIsSent :
    (session .sendingFirstFrame 8 0 1#4 .ok).state = .sendingFirstFrame ∧
    8 ≤ (session .sendingFirstFrame 8 0 1#4 .ok).totalLen.toNat ∧
    ([0#8, 1#8, 2#8, 3#8, 4#8, 5#8] : List Byte).length = 6 ∧
    (∀ k, k < 6 →
      (session .sendingFirstFrame 8 0 1#4 .ok).payload.read k = [0#8, 1#8, 2#8, 3#8, 4#8, 5#8][k]?) ∧
    (session .sendingFirstFrame 8 0 1#4 .ok).sendAnswers =
      [{ result := .ok, took := 2 }, { result := .ok, took := 3 }] := by decide

/-- The hypotheses of `ConsecutiveFrameIsSent`, as one decidable condition. -/
def cfReady (s : State) (chunk : List Byte) : Bool :=
  decide (s.state = .sendingConsecutiveFrames) && decide (s.consumed.toNat < s.totalLen.toNat) &&
  decide (chunk.length = min 7 (s.totalLen.toNat - s.consumed.toNat)) &&
  decide (∀ k, k < chunk.length → s.payload.read (s.consumed.toNat + k) = chunk[k]?) &&
  decide (s.tLast + s.sepUs.toNat ≤ s.now) && decide (s.sendAnswers ≠ [])

/-- Each way on: the payload ends and the block with it; the block ends one byte before the payload (P10); the block
goes on, finite and unlimited; and the guard holds at its first instant. -/
theorem witness_ConsecutiveFrameIsSent :
    cfReady (granted 7 6 1#4 1#8 0#17) [6#8] = true ∧
    cfReady (granted 14 6 1#4 1#8 0#17) [6#8, 7#8, 8#8, 9#8, 10#8, 11#8, 12#8] = true ∧
    cfReady (granted 14 6 1#4 2#8 0#17) [6#8, 7#8, 8#8, 9#8, 10#8, 11#8, 12#8] = true ∧
    cfReady (session .sendingConsecutiveFrames 20 6 1#4 .ok) [6#8, 7#8, 8#8, 9#8, 10#8, 11#8, 12#8] = true ∧
    cfReady { granted 7 6 1#4 1#8 300#17 with now := 300 } [6#8] = true := by decide

theorem witness_PacingGuardHoldsConsecutiveFrame :
    (granted 7 6 1#4 1#8 300#17).builtCf = .ok (encode (.cf 1#4 [6#8, 0#8, 0#8, 0#8, 0#8, 0#8, 0#8])) ∧
    ({ granted 7 6 1#4 1#8 300#17 with now := 299 } : State).now <
      (granted 7 6 1#4 1#8 300#17).tLast + (granted 7 6 1#4 1#8 300#17).sepUs.toNat := ⟨rfl, by decide⟩

theorem witness_UnansweredSendIsHeld :
    (let s := { session .sendingSingleFrame 1 0 1#4 .ok with sendAnswers := [] };
      s.sendAnswers = [] ∧ s.state = .sendingSingleFrame ∧ s.builtSf = .ok (encode (.sf [0#8]))) ∧
    (let s := { session .sendingFirstFrame 8 0 1#4 .ok with sendAnswers := [] };
      s.sendAnswers = [] ∧ s.state = .sendingFirstFrame ∧
      s.builtFf = .ok (encode (.ff 8#12 [0#8, 1#8, 2#8, 3#8, 4#8, 5#8]))) ∧
    (let s := { granted 7 6 1#4 1#8 0#17 with sendAnswers := [] };
      s.sendAnswers = [] ∧ s.state = .sendingConsecutiveFrames ∧
      s.builtCf = .ok (encode (.cf 1#4 [6#8, 0#8, 0#8, 0#8, 0#8, 0#8, 0#8]))) :=
  ⟨⟨rfl, rfl, rfl⟩, ⟨rfl, rfl, rfl⟩, rfl, rfl, rfl⟩

/-- One send of each frame; also for `FrameOfEmittingInstructions`. -/
theorem witness_SendFailureOnlyLogs :
    (∃ t, exec (.sf [0#8]) (session .sendingSingleFrame 1 0 1#4 .ok) = .next t ∧ t.bus ≠ []) ∧
    (∃ t, exec (.ff 8#12 [0#8, 1#8, 2#8, 3#8, 4#8, 5#8]) (session .sendingFirstFrame 8 0 1#4 .ok) = .next t ∧
      t.bus ≠ []) ∧
    (∃ t, exec (.cf 1#4 [6#8, 0#8, 0#8, 0#8, 0#8, 0#8, 0#8]) (granted 7 6 1#4 1#8 0#17) = .next t ∧
      t.bus ≠ []) ∧
    (granted 7 6 1#4 1#8 0#17).sendAnswers = [{ result := .ok, took := 2 }, { result := .ok, took := 3 }] ∧
    (granted 7 6 1#4 1#8 0#17).bus = [] :=
  ⟨⟨_, rfl, by decide⟩, ⟨_, rfl, by decide⟩, ⟨_, rfl, by decide⟩, rfl, rfl⟩

/-- Both ends of every range of `STmin` and of `BS`; the ranges do not meet. Also for the other statements about a
received frame, whose one hypothesis is the state. -/
theorem witness_ClearToSendGrants :
    (awaiting true false).state = .awaitingFlowControl ∧
    (0#8).toNat = 0 ∧ 1 ≤ (1#8).toNat ∧ 1 ≤ (255#8).toNat ∧
    (0x7F#8).toNat ≤ 0x7F ∧ (0x80 ≤ (0x80#8).toNat ∧ (0xF0#8).toNat ≤ 0xF0) ∧
    (0xF1 ≤ (0xF1#8).toNat ∧ (0xF9#8).toNat ≤ 0xF9) ∧ 0xFA ≤ (0xFA#8).toNat ∧ 0xFA ≤ (0xFF#8).toNat := by decide

theorem witness_FramesNeedTheirState :
    State.reset.state ≠ .sendingSingleFrame ∧ State.reset.state ≠ .sendingFirstFrame ∧
    State.reset.state ≠ .sendingConsecutiveFrames ∧ State.reset.state ≠ .awaitingFlowControl ∧
    (Instr.rxShort []).direction = .rx := by decide

/-- Nothing there at the deadline exactly; a frame there one microsecond after it; and the adapter's `None` before
it. -/
theorem witness_TimeoutRaisesItsStatus :
    (let s := given (awaiting false true) 1000000 none [] false;
      hostQuiet s ∧ s.state = .awaitingFlowControl ∧ s.rxQueue ++ s.nextInput.arrivals = [] ∧
      s.fcDeadline ≤ s.now + s.nextInput.elapsed) ∧
    (let s := given (awaiting true true) 1000001 none [[0x30#8, 0#8, 0#8]] false;
      hostQuiet s ∧ s.state = .awaitingFlowControl ∧ s.fcDeadline < s.now + s.nextInput.elapsed) ∧
    (let s := given (awaiting true false) 0 none [[0x30#8, 0#8, 0#8]] true;
      hostQuiet s ∧ s.state = .awaitingFlowControl ∧ s.nextInput.recvNone = true) :=
  ⟨⟨rfl, rfl, rfl, by decide⟩, ⟨rfl, rfl, by decide⟩, rfl, rfl, rfl⟩

/-- One microsecond before it. -/
theorem witness_OpenWindowWaits :
    let s := given (awaiting false true) 999999 none [] false
    hostQuiet s ∧ s.state = .awaitingFlowControl ∧ s.nextInput.recvNone = false ∧
      s.rxQueue ++ s.nextInput.arrivals = [] ∧ s.now + s.nextInput.elapsed < s.fcDeadline :=
  ⟨rfl, rfl, rfl, rfl, by decide⟩

theorem witness_DeadlineTieAdmitsBoth :
    let s := given (awaiting false true) 1000000 none [[0x30#8, 0#8, 0#8]] false
    s.state = .awaitingFlowControl ∧ s.inputs = [s.nextInput] ∧ s.nextInput.host = none ∧
      s.rxQueue ++ s.nextInput.arrivals = [[0x30#8, 0#8, 0#8]] ∧ ([0x30#8, 0#8, 0#8] : List Byte).length ≤ 8 ∧
      s.now + s.nextInput.elapsed = s.fcDeadline := ⟨rfl, rfl, rfl, rfl, by decide, rfl⟩

theorem witness_FrameOfReceivedInstructions :
    (∃ t, exec (.fcCts 1#8 1#8 []) (awaiting true false) = .next t) ∧
    (∃ t, exec (.fcWait 1#8 1#8 []) (awaiting true false) = .next t) ∧
    (∃ t, exec (.fcOvfl 1#8 1#8 []) (awaiting true false) = .next t) ∧
    (∃ t, exec (.fcUnknown3 1#8 1#8 []) (awaiting true false) = .next t) ∧
    (∃ t, exec (.rxShort []) (awaiting true false) = .next t) :=
  ⟨⟨_, rfl⟩, ⟨_, rfl⟩, ⟨_, rfl⟩, ⟨_, rfl⟩, ⟨_, rfl⟩⟩

theorem witness_TerminalStatesOnlyWait :
    hostQuiet State.reset ∧ State.reset.busy = false ∧
    hostQuiet { State.reset with state := .done } ∧ State.busy { State.reset with state := .done } = false :=
  ⟨rfl, rfl, rfl, rfl⟩

/-- A state of each phase that meets the invariant, with a step to a next state. -/
theorem witness_StepKeepsInvariant :
    (∃ s t, Inv s ∧ s.state = .sendingSingleFrame ∧ step s = .next t) ∧
    (∃ s t, Inv s ∧ s.state = .sendingFirstFrame ∧ step s = .next t) ∧
    (∃ s t, Inv s ∧ s.state = .sendingConsecutiveFrames ∧ step s = .next t) ∧
    (∃ s t, Inv s ∧ s.state = .awaitingFlowControl ∧ step s = .next t) ∧
    (∃ s t, Inv s ∧ s.nextInput.host ≠ none ∧ step s = .next t) :=
  ⟨⟨_, _, inv_single, rfl, rfl⟩, ⟨_, _, inv_first, rfl, rfl⟩, ⟨_, _, inv_granted, rfl, rfl⟩,
    ⟨_, _, inv_awaiting, rfl, rfl⟩, ⟨_, _, inv_beforeStart, by decide, rfl⟩⟩

theorem witness_GoodStatesNeverStop :
    (Inv (granted 21 6 1#4 2#8 300#17) ∧ hostLegal (granted 21 6 1#4 2#8 300#17)) ∧
    (Inv beforeStart ∧ hostLegal beforeStart) :=
  ⟨⟨inv_granted, fun _ h => by cases h⟩, inv_beforeStart, fun _ h => by cases h; decide⟩

/-- Whatever its length, a payload that is not empty is accepted by an idle block. -/
theorem start_runs {n : Nat} (h : 1 ≤ n) :
    ∃ t, step (given State.reset 0 (some (.start (command (List.replicate n 0#8)))) [] false) = .next t := by
  show ∃ t, State.start _ (command (List.replicate n 0#8)) = .next t
  have hb : ∀ s : State, s.state = .idle → ¬ s.busy = true := fun s hs => by simp [State.busy, hs, MState.busy]
  rw [State.start, if_neg (hb _ rfl), command_length, if_neg (by simp only [Config.minPayload]; omega)]
  split <;> exact ⟨_, rfl⟩

/-- A step of the block; a START at each end of each range of lengths, 1 and 7, 8 and 4095, and 4096; and a reset. Also
for `BusDiscipline` and `ClockNeverGoesBack`. -/
theorem witness_NoOtherEdge :
    (∃ t, step (granted 7 6 1#4 1#8 0#17) = .next t ∧ hostQuiet (granted 7 6 1#4 1#8 0#17)) ∧
    (∀ n ∈ [1, 7, 8, 4095, 4096],
      ∃ t, step (given State.reset 0 (some (.start (command (List.replicate n 0#8)))) [] false) = .next t) ∧
    (∃ t, step (given (awaiting true true) 0 (some .reset) [] false) = .next t) :=
  ⟨⟨_, rfl, rfl⟩, fun _ hn => start_runs (by revert hn; simp; omega), ⟨_, rfl⟩⟩

/-- Also for `SessionParametersAreFixed`: the host is quiet and a frame goes out, at the first instant allowed. -/
theorem witness_PacingGapIsHonoured :
    let s : State := { granted 7 6 1#4 1#8 300#17 with now := 300 }
    hostQuiet s ∧ s.state = .sendingConsecutiveFrames ∧ ∃ t, step s = .next t ∧ t.bus ≠ s.bus :=
  ⟨rfl, rfl, _, rfl, by decide⟩

/-- The First Frame is due. -/
theorem witness_FramesGoOutInOrder :
    let p : List Byte := (List.range 8).map (BitVec.ofNat 8)
    let s := session .sendingFirstFrame 8 0 1#4 .ok
    Inv s ∧ SentPrefix [] p s ∧ hostQuiet s ∧ ∃ t, step s = .next t :=
  ⟨inv_first, ⟨rfl, by decide, by decide⟩, rfl, _, rfl⟩

theorem witness_BlockEndsAfterItsFrames :
    let s := granted 21 6 1#4 2#8 300#17
    Inv s ∧ s.state = .sendingConsecutiveFrames ∧ s.bsUnlimited = false ∧ s.bsRem.toNat = 2 ∧
      s.consumed.toNat + 7 * 2 < s.totalLen.toNat ∧ s.inputs = [] ∧ s.recurring = [] ∧
      2 ≤ s.sendAnswers.length :=
  ⟨inv_granted, rfl, rfl, rfl, by decide, rfl, rfl, by decide⟩

theorem witness_UnlimitedTransferCompletes :
    Inv beforeStart ∧ beforeStart.busy = false ∧ beforeStart.inputs = [beforeStart.nextInput] ∧
    beforeStart.recurring = [] ∧
    beforeStart.nextInput.host = some (.start (command (List.replicate 8 0xAB#8))) ∧
    8 ≤ (command (List.replicate 8 0xAB#8)).payload.length ∧
    (command (List.replicate 8 0xAB#8)).payload.length ≤ 4095 ∧
    beforeStart.rxQueue ++ beforeStart.nextInput.arrivals = [[0x30#8, 0#8, 0xF9#8]] ∧
    1 + cfCount (command (List.replicate 8 0xAB#8)).payload.length ≤ beforeStart.sendAnswers.length :=
  ⟨inv_beforeStart, rfl, rfl, rfl, rfl, by decide, by decide, rfl, by decide⟩

theorem witness_SingleFrameSession :
    let s : State := { given State.reset 0 (some (.start (command [0xAB#8]))) [] false with
      sendAnswers := [{ result := .ok, took := 0 }] }
    s.busy = false ∧ s.inputs = [s.nextInput] ∧ s.recurring = [] ∧ s.nextInput.host = some (.start (command [0xAB#8])) ∧
      1 ≤ (command [0xAB#8]).payload.length ∧ (command [0xAB#8]).payload.length ≤ 7 ∧
      s.sendAnswers = [{ result := .ok, took := 0 }] := ⟨rfl, rfl, rfl, rfl, by decide, by decide, rfl⟩

/-- A window still open, and one already over. -/
theorem witness_TimeoutArrivesInTime :
    ((awaiting true true).state = .awaitingFlowControl ∧ (awaiting true true).rxQueue = [] ∧
      (awaiting true true).inputs = [] ∧ (awaiting true true).recurring = [] ∧
      (awaiting true true).now < (awaiting true true).fcDeadline) ∧
    ({ awaiting true true with now := 1000001 } : State).fcDeadline <
      ({ awaiting true true with now := 1000001 } : State).now := ⟨⟨rfl, rfl, rfl, rfl, by decide⟩, by decide⟩

/-- An input in which one frame arrives, `elapsed` microseconds after the last. -/
def arrival (elapsed : Nat) (d : List Byte) : StepInput :=
  { elapsed := elapsed, host := none, arrivals := [d], recvNone := false }

/-- A session that awaits its grant while frames that are none arrive for ever; its remaining sends are answered. -/
def discarding : State :=
  { awaiting true false with
    inputs := [arrival 4 [0x31#8, 0#8, 0#8]], recurring := [arrival 1 [0x21#8, 0#8, 0#8], arrival 1 [0x35#8, 0#8, 0#8]]
    sendAnswers := List.replicate 14 { result := .ok, took := 1 } }

theorem witness_EverySessionEnds :
    Inv discarding ∧ discarding.busy = true ∧ hostSilent discarding ∧ finiteWaits discarding ∧
      finiteRate discarding ∧
      discarding.totalLen.toNat - discarding.consumed.toNat ≤ discarding.sendAnswers.length :=
  ⟨{ inv_awaiting with arrivals_fit := by decide, recurring_fit := by decide }, rfl, ⟨by decide, by decide⟩,
    by unfold finiteWaits; decide, by unfold finiteRate; decide, by decide⟩

/-- A peer that sends Wait for ever, each at the last microsecond of the window it finds. -/
def waitStream : State := { awaiting true false with recurring := [arrival 1000000 [0x31#8, 0#8, 0#8]] }

theorem witness_WaitStreamHoldsTheBlock :
    Inv waitStream ∧ waitStream.state = .awaitingFlowControl ∧ waitStream.rxQueue = [] ∧
      waitStream.recurring ≠ [] ∧ (∀ i ∈ waitStream.inputs ++ waitStream.recurring, waitsAgain waitStream.nBs i) ∧
      waitStream.now + waitStream.nextInput.elapsed ≤ waitStream.fcDeadline := by
  refine ⟨{ inv_awaiting with recurring_fit := by decide }, rfl, rfl, by decide, ?_, by decide⟩
  intro i hi
  cases List.mem_singleton.mp hi
  exact ⟨rfl, rfl, by decide, _, _, _, rfl, by decide⟩

/-- R225: the Wait stream re-arms the window, and comes round again. -/
theorem test_recurring_wait :
    (after (core.run 3 waitStream)).map (fun t => (t.state, t.now, t.fcDeadline, t.recurring.length)) =
      some (.awaitingFlowControl, 3000000, 4000000, 1) := by decide

theorem witness_VerboseHasNoEffect :
    ∃ t, step (session .sendingSingleFrame 1 0 1#4 .ok) = .next t := ⟨_, rfl⟩

/-- Two states that differ in registers `Idle` has no use for. -/
theorem witness_UnspecifiedRegistersAreNeverRead :
    SameLive State.reset { State.reset with seq := 9#4, sepUs := 77#17, tLast := 5, granted := true, len := 3 } ∧
    ∃ t, step State.reset = .next t := by
  refine ⟨?_, _, rfl⟩
  constructor <;> first | rfl | exact fun h => by cases h

end Sys2Proof.Tests
end

section
/-! PROOFS. The reception decoder as the procedure of rule R89: the length test, then the type nibble, then the flow
status. -/

namespace Sys2Proof.Proofs.Reception
open Sys2Proof.Laws

/-- The high nibble of a byte is its quotient by 16 (rule R9). -/
theorem hiNibble_toNat (b : Byte) : (hiNibble b).toNat = b.toNat / 16 := by
  have := b.isLt
  simp only [hiNibble, BitVec.extractLsb'_toNat, Nat.shiftRight_eq_div_pow]
  omega

/-- The low nibble of a byte is its remainder by 16 (rule R9). -/
theorem loNibble_toNat (b : Byte) : (loNibble b).toNat = b.toNat % 16 := by
  simp [loNibble]

theorem hiNibble_eq_three_iff (b : Byte) : hiNibble b = 0x3#4 ↔ b.toNat / 16 = 3 := by
  rw [← hiNibble_toNat]
  exact BitVec.toNat_inj.symm

theorem restFits_three {rest : List Byte} (h : rest.length ≤ 5) : restFits 3 rest = true := by
  simp [restFits]; omega

/-- The length test comes first: fewer than three bytes are not Flow Control (rules R83, R89). -/
theorem decode_rx_of_length_lt_three {d : List Byte} (h : d.length < 3) : decode .rx d = .ok (.rxShort d) :=
  RoundTrip.rxShort d (by simp [Instr.wellFormed]; omega)

/-- With type nibble 3 the flow status decides (rule R89). -/
theorem decode_rx_of_type_three {b0 bs st : Byte} {rest : List Byte} (hlen : rest.length ≤ 5)
    (htype : b0.toNat / 16 = 3) :
    decode .rx (b0 :: bs :: st :: rest) = .ok (decodeFc (loNibble b0) bs st rest) := by
  have hb0 : (0x3#4 ++ loNibble b0 : Byte) = b0 := by
    rw [← (hiNibble_eq_three_iff b0).mpr htype, nibbles_append]
  rw [← RoundTrip.decode_fc (restFits_three hlen), hb0]

/-- With any other type nibble the type decides (rules R83, R89). -/
theorem decode_rx_of_type_ne_three {b0 bs st : Byte} {rest : List Byte} (hlen : rest.length ≤ 5)
    (htype : b0.toNat / 16 ≠ 3) :
    decode .rx (b0 :: bs :: st :: rest) = .ok (decodeNotFc (hiNibble b0) (loNibble b0) (bs :: st :: rest)) := by
  have hfits : typedRestFits (bs :: st :: rest) = true := by
    simp [typedRestFits, restFits]; omega
  rw [← RoundTrip.decode_notFc hfits (mt (hiNibble_eq_three_iff b0).mp htype), nibbles_append]

/-- Every row a type other than 3 selects is RX.NOTFC (rule R83). -/
theorem decodeNotFc_mnemonic (type low : Nibble) (rest : List Byte) :
    (decodeNotFc type low rest).mnemonic = .rxNotFc := by
  unfold decodeNotFc
  split_ifs <;> rfl

/-- Every row a flow status of 3 to 15 selects is FC.UNKNOWN (rule R84). -/
theorem decodeFc_mnemonic_of_three_le {fs : Nibble} (h : 3 ≤ fs.toNat) (bs st : Byte) (rest : List Byte) :
    (decodeFc fs bs st rest).mnemonic = .fcUnknown := by
  have notKnown : ∀ fs : Nibble, 3 ≤ fs.toNat → fs ≠ 0x0#4 ∧ fs ≠ 0x1#4 ∧ fs ≠ 0x2#4 := by decide
  obtain ⟨h0, h1, h2⟩ := notKnown fs h
  rw [decodeFc, if_neg h0, if_neg h1, if_neg h2]
  split_ifs <;> rfl

/-- Settles O4: the length test, the type nibble and the flow status each have their own lemma; the three known flow
statuses are the round trips of their rows. -/
theorem receptionDecoderFollowsProcedure : Obligations.ReceptionDecoderFollowsProcedure := by
  unfold Obligations.ReceptionDecoderFollowsProcedure
  refine ⟨fun d => decode_rx_of_length_lt_three, fun b0 bs st rest hlen => ⟨?notFc, ?cts, ?wait, ?ovfl, ?unknown⟩⟩
  case notFc =>
    intro htype
    exact ⟨_, decode_rx_of_type_ne_three hlen htype, decodeNotFc_mnemonic _ _ _⟩
  case cts =>
    intro hb0
    obtain rfl : b0 = 0x30#8 := BitVec.eq_of_toNat_eq hb0
    exact RoundTrip.fcCts bs st rest (restFits_three hlen)
  case wait =>
    intro hb0
    obtain rfl : b0 = 0x31#8 := BitVec.eq_of_toNat_eq hb0
    exact RoundTrip.fcWait bs st rest (restFits_three hlen)
  case ovfl =>
    intro hb0
    obtain rfl : b0 = 0x32#8 := BitVec.eq_of_toNat_eq hb0
    exact RoundTrip.fcOvfl bs st rest (restFits_three hlen)
  case unknown =>
    intro htype hstatus
    exact ⟨_, decode_rx_of_type_three hlen htype,
      decodeFc_mnemonic_of_three_le (by rwa [loNibble_toNat]) bs st rest⟩

end Sys2Proof.Proofs.Reception
end

section
/-! PROOFS. The transmission state machine: START, the Single Frame, and the Flow Control frames of the wait window
(rules R142 to R144, R148 to R150, R152). -/

namespace Sys2Proof.Proofs.Transmission
open Sys2Proof.Machine

/-! ## START -/

/-- A START takes the place of the block's own step (rule R141). -/
theorem step_of_start {s : State} {cmd : StartCommand} (h : s.nextInput.host = some (.start cmd)) :
    step s = s.afterInput.start cmd := by
  simp only [step, h]

/-- A legal payload creates the session (rule R143). -/
theorem start_of_legal {s : State} {cmd : StartCommand} (hidle : s.busy = false) (hmin : 1 ≤ cmd.payload.length)
    (hmax : cmd.payload.length ≤ 4095) : s.start cmd = .next (s.createSession cmd) := by
  rw [State.start, if_neg (by simp [hidle]), if_neg (not_lt.mpr hmin), if_neg (not_lt.mpr hmax)]

/-- An overlong payload raises its error before anything of the session is written (rule R142). -/
theorem start_of_overlong {s : State} {cmd : StartCommand} (hidle : s.busy = false)
    (hlong : 4095 < cmd.payload.length) : s.start cmd = .next (s.raiseError .payloadTooLong .payloadTooLong) := by
  rw [State.start, if_neg (by simp [hidle]), if_neg (by simp only [Config.minPayload]; omega), if_pos hlong]

/-- Settles O9: the step is `createSession`; a length up to 4095 fits the 12 bits of `S.total_len`, and the snapshot
reads as the payload. -/
theorem startCreatesSession : Obligations.StartCreatesSession := by
  unfold Obligations.StartCreatesSession
  intro s cmd hhost hidle hmin hmax
  have hlen : (BitVec.ofNat 12 cmd.payload.length).toNat = cmd.payload.length :=
    Nat.mod_eq_of_lt (by omega)
  refine ⟨s.afterInput.createSession cmd, (step_of_start hhost).trans (start_of_legal hidle hmin hmax), hlen, ?_⟩
  simp [State.status, read_ofBytes]

/-- Settles O11: the step raises the error, which writes `S.state` and `S.result` only. -/
theorem overlongStartGivesStatusTwo : Obligations.OverlongStartGivesStatusTwo := by
  unfold Obligations.OverlongStartGivesStatusTwo
  intro s cmd hhost hidle hlong
  exact ⟨_, (step_of_start hhost).trans (start_of_overlong hidle hlong), rfl, rfl, rfl⟩

/-! ## The Single Frame -/

/-- The bytes of a Single Frame: the length, the payload, the padding (rule R72). -/
theorem encode_sf_eq {p : List Byte} (h : p.length ≤ 7) :
    encode (.sf p) = BitVec.ofNat 8 p.length :: p ++ List.replicate (7 - p.length) 0x00#8 := by
  rw [encode, ← sfPci_eq h]
  simp [pad8]

/-- With an answer ready, a send goes on with it (rule R157). -/
theorem emit_of_answer {s : State} {a : SendAnswer} {rest : List SendAnswer} (h : s.sendAnswers = a :: rest)
    (d : List Byte) (e : LogEvent) (after : State → State) :
    s.emit d e after = .next (after (s.sentLogged d a e)) := by
  simp only [State.emit, h, State.sentLogged]

/-- The frame the block builds in `SendingSingleFrame` is emitted (rule R144). -/
theorem exec_sf_of_built {s : State} {p : List Byte} (hs : s.state = .sendingSingleFrame)
    (hb : s.builtSf = .ok (encode (.sf p))) :
    exec (.sf p) s = s.emit (encode (.sf p)) .sendFailedSf State.afterSf := by
  rw [exec, execSf, if_pos hs, hb, whenBuilt_self]

/-- Settles O14: the block builds the frame from the payload it reads, the frame is emitted, and the session is
finished after either answer. -/
theorem singleFrameIsSent : Obligations.SingleFrameIsSent := by
  unfold Obligations.SingleFrameIsSent
  intro s p a rest hs hmin hmax htotal hread hanswer
  have hmem : s.memRead 0 s.totalLen.toNat = .ok p := by
    rw [memRead_ok_iff, htotal]
    exact ⟨hmin, by omega, rfl, by simpa using hread⟩
  rw [exec_sf_of_built hs (builtSf_eq hmem hmax), emit_of_answer hanswer, encode_sf_eq hmax, State.sentLogged,
    logFailure_eq]
  simp [State.afterSf, State.finish, State.sent, hanswer]

/-! ## The frames of the wait window -/

/-- A received frame's meaning runs in AwaitingFlowControl (rule R140). -/
theorem whenAwaiting_of_awaiting {s : State} (h : s.state = .awaitingFlowControl) (t : State) :
    s.whenAwaiting t = .next t :=
  if_pos h

/-- STmin 0x00 to 0x7F counts milliseconds (rule R121). -/
theorem interpret_milliseconds {c : Byte} (h : c.toNat ≤ 0x7F) : (interpret c).toNat = c.toNat * 1000 := by
  rw [interpret, if_pos h, BitVec.toNat_ofNat]
  omega

/-- STmin 0xF1 to 0xF9 counts hundreds of microseconds (rule R121). -/
theorem interpret_hundredMicroseconds {c : Byte} (hlo : 0xF1 ≤ c.toNat) (hhi : c.toNat ≤ 0xF9) :
    (interpret c).toNat = (c.toNat - 0xF0) * 100 := by
  rw [interpret, if_neg (by omega), if_pos ⟨hlo, hhi⟩, BitVec.toNat_ofNat]
  omega

/-- The reserved STmin codes give 0 (rules R85, R121). -/
theorem interpret_reserved {c : Byte} (h : 0x80 ≤ c.toNat ∧ c.toNat ≤ 0xF0 ∨ 0xFA ≤ c.toNat) :
    (interpret c).toNat = 0 := by
  rw [interpret, if_neg (by omega), if_neg (by omega), BitVec.toNat_zero]

/-- `BS` 0 is an unlimited block (rule R122). -/
theorem blockLimit_of_zero {bs : Byte} (h : bs.toNat = 0) : blockLimit bs = .unlimited :=
  if_pos (BitVec.eq_of_toNat_eq h)

/-- Any other `BS` is the number of frames of the block (rule R122). -/
theorem blockLimit_of_pos {bs : Byte} (h : 1 ≤ bs.toNat) : blockLimit bs = .limit bs :=
  if_neg (by rintro rfl; simp at h)

/-- Settles O20: the step is the grant, and `BS` and STmin are read by their own lemmas. -/
theorem clearToSendGrants : Obligations.ClearToSendGrants := by
  unfold Obligations.ClearToSendGrants
  intro s bs st rest hs
  refine ⟨s.grant (blockLimit bs) (interpret st), whenAwaiting_of_awaiting hs _, rfl, rfl, ?unlimited, ?limited,
    interpret_milliseconds, fun hlo hhi => interpret_reserved (.inl ⟨hlo, hhi⟩), interpret_hundredMicroseconds,
    fun hlo => interpret_reserved (.inr hlo), rfl⟩
  case unlimited =>
    intro h
    simp [blockLimit_of_zero h]
  case limited =>
    intro h
    simp [blockLimit_of_pos h]

/-- Settles O21: a Wait frame runs `waitMore`, which stays in the state it is in. -/
theorem waitRearmsTheWindow : Obligations.WaitRearmsTheWindow := by
  unfold Obligations.WaitRearmsTheWindow
  intro s bs st rest hs
  have hwait : s.waitMore = { s with waitSeen := true, fcDeadline := s.now + s.nBs } := by
    simp [State.waitMore, ← hs]
  rw [← hwait]
  exact whenAwaiting_of_awaiting hs _

/-- Every row of FC.UNKNOWN and of RX.NOTFC is a discard, which changes nothing (rules R148, R149). -/
theorem exec_of_discarded {i : Instr} (hi : i.mnemonic = .fcUnknown ∨ i.mnemonic = .rxNotFc) {s : State}
    (hs : s.state = .awaitingFlowControl) : exec i s = .next s := by
  have hdiscard : exec i s = s.whenAwaiting s.discard := by
    cases i with
    | fcUnknown3 | fcUnknown4to7 | fcUnknown8to15 | rxType0to1 | rxType2 | rxType4to7 | rxType8to15 | rxShort => rfl
    | sf | ff | cf | fcCts | fcWait | fcOvfl => simp [Instr.mnemonic] at hi
  rw [hdiscard, whenAwaiting_of_awaiting hs, discard_eq hs]

/-- Settles O23: the three rows are discards. -/
theorem unknownStatusIsDiscarded : Obligations.UnknownStatusIsDiscarded := by
  unfold Obligations.UnknownStatusIsDiscarded
  intro s bs st rest hs
  exact ⟨exec_of_discarded (.inl rfl) hs, fun _ => exec_of_discarded (.inl rfl) hs,
    fun _ => exec_of_discarded (.inl rfl) hs⟩

/-- Settles O24: the five rows are discards. -/
theorem notFlowControlIsDiscarded : Obligations.NotFlowControlIsDiscarded := by
  unfold Obligations.NotFlowControlIsDiscarded
  intro s low rest hs
  exact ⟨fun _ => exec_of_discarded (.inr rfl) hs, exec_of_discarded (.inr rfl) hs,
    fun _ => exec_of_discarded (.inr rfl) hs, fun _ => exec_of_discarded (.inr rfl) hs,
    exec_of_discarded (.inr rfl) hs⟩

end Sys2Proof.Proofs.Transmission
end

section
/-! PROOFS. Encoding: the decoders and `encode` undo each other, the codec's functions against their reference decoders,
and a received frame against the decision of rule R123. -/

namespace Sys2Proof.Proofs.Encoding
open Sys2Proof.Machine Sys2Proof.Laws Sys2Proof.Proofs.Reception Sys2Proof.Proofs.Transmission

/-- Settles O1: each word is decoded by evaluation. -/
theorem opcodeWordsDecode : Obligations.OpcodeWordsDecode := by
  unfold Obligations.OpcodeWordsDecode
  decide

/-- Settles O2: each row has its round-trip lemma. -/
theorem decodeOfEncodeIsIdentity : Obligations.DecodeOfEncodeIsIdentity := by
  unfold Obligations.DecodeOfEncodeIsIdentity
  intro i
  cases i with
  | sf p => exact RoundTrip.sf p
  | ff l c => exact RoundTrip.ff l c
  | cf sn data => exact RoundTrip.cf sn data
  | fcCts bs st rest => exact RoundTrip.fcCts bs st rest
  | fcWait bs st rest => exact RoundTrip.fcWait bs st rest
  | fcOvfl bs st rest => exact RoundTrip.fcOvfl bs st rest
  | fcUnknown3 bs st rest => exact RoundTrip.fcUnknown3 bs st rest
  | fcUnknown4to7 f bs st rest => exact RoundTrip.fcUnknown4to7 f bs st rest
  | fcUnknown8to15 f bs st rest => exact RoundTrip.fcUnknown8to15 f bs st rest
  | rxType0to1 t low rest => exact RoundTrip.rxType0to1 t low rest
  | rxType2 low rest => exact RoundTrip.rxType2 low rest
  | rxType4to7 t low rest => exact RoundTrip.rxType4to7 t low rest
  | rxType8to15 t low rest => exact RoundTrip.rxType8to15 t low rest
  | rxShort data => exact RoundTrip.rxShort data

/-! ## From bytes to an instruction and back to the bytes -/

/-- `i` is a well-formed instruction of this direction, and `d` are its bytes. -/
def Spells (dir : Direction) (d : List Byte) (i : Instr) : Prop :=
  i.wellFormed = true ∧ i.direction = dir ∧ encode i = d

/-- A Single Frame the decoder accepts has its length in the low nibble and zero padding, as `encode` writes it. -/
theorem spells_of_decodeSf {dl : Nibble} {data : List Byte} {i : Instr} (hlen : data.length = 7)
    (h : decodeSf dl data = .ok i) : Spells .tx ((0x0#4 ++ dl) :: data) i := by
  unfold decodeSf at h
  split_ifs at h with hdl hpad
  cases h
  have hdl : 1 ≤ dl.toNat ∧ dl.toNat ≤ 7 := by simp at hdl; omega
  have htake : (data.take dl.toNat).length = dl.toNat := by simp; omega
  have hdrop : data.drop dl.toNat = List.replicate (7 - dl.toNat) 0x00#8 := by
    rw [List.eq_replicate_iff]
    exact ⟨by simp [hlen], by simpa using hpad⟩
  refine ⟨?_, rfl, ?_⟩
  · simp only [Instr.wellFormed, htake]
    simpa using hdl
  · rw [encode, htake, BitVec.ofNat_toNat, BitVec.setWidth_eq, pad8, List.length_cons, htake, List.cons_append,
      show Config.frameLen - (dl.toNat + 1) = 7 - dl.toNat from Nat.add_sub_add_right 7 1 _, ← hdrop,
      List.take_append_drop]

/-- The two parts of a 12-bit length joined from them (rule R76). -/
theorem extract_append (high : Nibble) (low : Byte) :
    (high ++ low : BitVec 12).extractLsb' 8 4 = high ∧ (high ++ low : BitVec 12).extractLsb' 0 8 = low := by
  constructor
  · exact BitVec.extractLsb'_append_eq_left
  · exact BitVec.extractLsb'_append_eq_right

/-- A First Frame the decoder accepts. -/
theorem spells_of_decodeFf {high : Nibble} {low : Byte} {chunk : List Byte} {i : Instr} (hlen : chunk.length = 6)
    (h : decodeFf high low chunk = .ok i) : Spells .tx ((0x1#4 ++ high) :: low :: chunk) i := by
  unfold decodeFf at h
  split_ifs at h with hdl
  cases h
  obtain ⟨hhigh, hlow⟩ := extract_append high low
  refine ⟨?_, rfl, ?_⟩
  · simpa [Instr.wellFormed, hlen] using hdl
  · rw [encode, hhigh, hlow]

/-- Bytes the emission decoder accepts, by their type nibble (rules R72 to R74). -/
theorem spells_of_decodeTx {d : List Byte} {i : Instr} (h : decodeTx d = .ok i) : Spells .tx d i := by
  unfold decodeTx at h
  split_ifs at h with hlen
  match d, h, hlen with
  | b0 :: b1 :: tail, h, hlen =>
    simp only at h
    have hlen7 : (b1 :: tail).length = 7 := by simpa using hlen
    have htail : tail.length = 6 := by simpa using hlen7
    split_ifs at h with h0 h1 h2
    · rw [← nibbles_append b0, h0]
      exact spells_of_decodeSf hlen7 h
    · rw [← nibbles_append b0, h1]
      exact spells_of_decodeFf htail h
    · cases h
      rw [← nibbles_append b0, h2, loNibble_append]
      exact ⟨by simp [Instr.wellFormed, htail], rfl, rfl⟩

/-- A flow status above 3 is its leading bits and the field of its row (rule R84). -/
theorem flowStatus_append (fs : Nibble) (h0 : fs ≠ 0x0#4) (h1 : fs ≠ 0x1#4) (h2 : fs ≠ 0x2#4) (h3 : fs ≠ 0x3#4) :
    if fs.extractLsb' 3 1 = 0b1#1 then (0b1#1 ++ fs.extractLsb' 0 3 : Nibble) = fs
    else (0b01#2 ++ fs.extractLsb' 0 2 : Nibble) = fs := by
  revert fs; decide

/-- A Flow Control frame of at most eight bytes, by its flow status (rules R75, R84). -/
theorem spells_decodeFc (fs : Nibble) (bs st : Byte) {rest : List Byte} (hlen : rest.length ≤ 5) :
    Spells .rx ((0x3#4 ++ fs) :: bs :: st :: rest) (decodeFc fs bs st rest) := by
  have hfits := restFits_three hlen
  unfold decodeFc
  split_ifs with h0 h1 h2 h3 htop
  · exact ⟨hfits, rfl, by rw [encode, h0]⟩
  · exact ⟨hfits, rfl, by rw [encode, h1]⟩
  · exact ⟨hfits, rfl, by rw [encode, h2]⟩
  · exact ⟨hfits, rfl, by rw [encode, h3]⟩
  · have hfs := flowStatus_append fs h0 h1 h2 h3
    rw [if_pos htop] at hfs
    exact ⟨hfits, rfl, by rw [encode, hfs]⟩
  · have hfs := flowStatus_append fs h0 h1 h2 h3
    rw [if_neg htop] at hfs
    exact ⟨hfits, rfl, by rw [encode, hfs]⟩

/-- A type other than 3 is its leading bits and the field of its row (rule R83). -/
theorem type_append (type : Nibble) (h3 : type ≠ 0x3#4) :
    if type.extractLsb' 3 1 = 0b1#1 then (0b1#1 ++ type.extractLsb' 0 3 : Nibble) = type
    else if type.extractLsb' 2 1 = 0b1#1 then (0b01#2 ++ type.extractLsb' 0 2 : Nibble) = type
    else type ≠ 0x2#4 → (0b000#3 ++ type.extractLsb' 0 1 : Nibble) = type := by
  revert type; decide

/-- A received frame of another type, by that type (rule R83). -/
theorem spells_decodeNotFc {type : Nibble} (low : Nibble) {rest : List Byte} (htype : type ≠ 0x3#4)
    (hfits : typedRestFits rest = true) : Spells .rx ((type ++ low) :: rest) (decodeNotFc type low rest) := by
  have hjoin := type_append type htype
  unfold decodeNotFc
  split_ifs at hjoin ⊢ with htop hmid h2
  · exact ⟨hfits, rfl, by rw [encode, hjoin]⟩
  · exact ⟨hfits, rfl, by rw [encode, hjoin]⟩
  · exact ⟨hfits, rfl, by rw [encode, h2]⟩
  · exact ⟨hfits, rfl, by rw [encode, hjoin h2]⟩

/-- Bytes the reception decoder accepts, in the order of its tests (rule R89). -/
theorem spells_of_decodeRx {d : List Byte} {i : Instr} (h : decodeRx d = .ok i) : Spells .rx d i := by
  unfold decodeRx at h
  split_ifs at h with hlen
  match d, h, hlen with
  | b0 :: b1 :: b2 :: rest, h, hlen =>
    have hrest : rest.length ≤ 5 := by simp at hlen; omega
    simp only at h
    split_ifs at h with h3
    · cases h
      rw [← nibbles_append b0, h3, loNibble_append]
      exact spells_decodeFc _ _ _ hrest
    · cases h
      have := spells_decodeNotFc (loNibble b0) (rest := b1 :: b2 :: rest) h3
        (by simp [typedRestFits, restFits]; omega)
      rwa [nibbles_append] at this
  | [], h, _ => cases h; exact ⟨rfl, rfl, rfl⟩
  | [_], h, _ => cases h; exact ⟨rfl, rfl, rfl⟩
  | [_, _], h, _ => cases h; exact ⟨rfl, rfl, rfl⟩

/-- Settles O3: both decoders accept only what `encode` writes. -/
theorem encodeOfDecodeIsIdentity : Obligations.EncodeOfDecodeIsIdentity := by
  unfold Obligations.EncodeOfDecodeIsIdentity
  intro dir d i h
  cases dir with
  | tx => exact spells_of_decodeTx h
  | rx => exact spells_of_decodeRx h

/-! ## The decision of rule R123 -/

theorem shift_eq_three_iff (b : Byte) : b >>> 4 = 0x3#8 ↔ hiNibble b = 0x3#4 := by
  revert b; decide

/-- A frame of three or more bytes and type 3 is Flow Control (rule R103). -/
theorem decodeFlowControl_of_type_three {b0 : Byte} (bs st : Byte) (rest : List Byte) (h : hiNibble b0 = 0x3#4) :
    decodeFlowControl (b0 :: bs :: st :: rest) = some (loNibble b0, bs, st) := by
  simp [decodeFlowControl, (shift_eq_three_iff b0).mpr h]

/-- A frame of another type is not (rule R103). -/
theorem decodeFlowControl_of_type_ne_three {b0 : Byte} (tail : List Byte) (h : hiNibble b0 ≠ 0x3#4) :
    decodeFlowControl (b0 :: tail) = none := by
  match tail with
  | [] => rfl
  | [_] => rfl
  | _ :: _ :: _ => simp [decodeFlowControl, mt (shift_eq_three_iff b0).mp h]

/-- A Flow Control frame runs as its flow status is classified (rules R120, R147). -/
theorem exec_decodeFc {s : State} (hs : s.state = .awaitingFlowControl) (fs : Nibble) (bs st : Byte)
    (rest : List Byte) :
    exec (decodeFc fs bs st rest) s = .next (match classify fs with
      | .clearToSend => s.grant (blockLimit bs) (interpret st)
      | .wait => s.waitMore
      | .overflow => s.overflow
      | .unknown => s) := by
  have hrun := whenAwaiting_of_awaiting hs
  by_cases h0 : fs = 0x0#4
  · subst h0; exact hrun _
  by_cases h1 : fs = 0x1#4
  · subst h1; exact hrun _
  by_cases h2 : fs = 0x2#4
  · subst h2; exact hrun _
  have hunknown : (decodeFc fs bs st rest).mnemonic = .fcUnknown := by
    rw [decodeFc, if_neg h0, if_neg h1, if_neg h2]
    split_ifs <;> rfl
  rw [exec_of_discarded (.inl hunknown) hs, classify, if_neg h0, if_neg h1, if_neg h2]

/-- Settles O5: a frame that is no Flow Control frame is discarded by both sides, and one that is goes by its flow
status on both. -/
theorem receivedFrameActsAsDecided : Obligations.ReceivedFrameActsAsDecided := by
  unfold Obligations.ReceivedFrameActsAsDecided
  intro d i s hs hd
  have hlen : d.length ≤ 8 := by
    by_contra hlong
    simp [decode, decodeRx, not_le.mp hlong] at hd
  match d, hd, hlen with
  | b0 :: bs :: st :: rest, hd, hlen =>
    have hrest : rest.length ≤ 5 := by simp at hlen; omega
    by_cases h3 : hiNibble b0 = 0x3#4
    · rw [decode_rx_of_type_three hrest ((hiNibble_eq_three_iff b0).mp h3)] at hd
      cases hd
      simp only [exec_decodeFc hs, decideFrame, decodeFlowControl_of_type_three bs st rest h3]
      cases classify (loNibble b0) <;> rfl
    · rw [decode_rx_of_type_ne_three hrest (mt (hiNibble_eq_three_iff b0).mpr h3)] at hd
      cases hd
      rw [exec_of_discarded (.inr (decodeNotFc_mnemonic _ _ _)) hs, decideFrame,
        decodeFlowControl_of_type_ne_three _ h3]
  | [], hd, _ => cases hd; exact exec_of_discarded (.inr rfl) hs
  | [_], hd, _ => cases hd; exact exec_of_discarded (.inr rfl) hs
  | [_, _], hd, _ => cases hd; exact exec_of_discarded (.inr rfl) hs

/-! ## The codec's functions -/

theorem ofNat4_toNat_of_le {n : Nat} (h : n ≤ 15) : (BitVec.ofNat 4 n).toNat = n := by
  rw [BitVec.toNat_ofNat]; omega

theorem ofNat12_toNat_of_le {n : Nat} (h : n ≤ 4095) : (BitVec.ofNat 12 n).toNat = n := by
  rw [BitVec.toNat_ofNat]; omega

/-- The First Frame of a legal length (rule R73). -/
theorem encodeFirstFrame_of_legal {l : Nat} {c : List Byte} (h8 : 8 ≤ l) (hmax : l ≤ 4095) (hc : c.length = 6) :
    encodeFirstFrame l c = .ok (encode (.ff (BitVec.ofNat 12 l) c)) := by
  have hl := ofNat12_toNat_of_le hmax
  rw [← encodeFirstFrame_eq (by rwa [hl]) hc, hl]

/-- The Consecutive Frame of a legal number (rule R74). -/
theorem encodeConsecutiveFrame_of_legal {sn : Nat} {c : List Byte} (hsn : sn ≤ 15) (hc : c.length ≤ 7) :
    encodeConsecutiveFrame sn c = .ok (encode (.cf (BitVec.ofNat 4 sn) (cfData c))) := by
  rw [← encodeConsecutiveFrame_eq _ hc, ofNat4_toNat_of_le hsn]

/-- The 12-bit length from its high nibble and low byte (rule R76). -/
theorem length_parts (l : BitVec 12) :
    (l.extractLsb' 8 4).toNat = l.toNat / 256 ∧ (l.extractLsb' 0 8).toNat = l.toNat % 256 := by
  have := l.isLt
  simp only [BitVec.extractLsb'_toNat, Nat.shiftRight_eq_div_pow]
  omega

theorem length_of_parts (l : BitVec 12) :
    (l.extractLsb' 8 4).toNat <<< 8 ||| (l.extractLsb' 0 8).toNat = l.toNat := by
  rw [← BitVec.toNat_append, RoundTrip.ffDl_append]

/-- Settles O6: each encoder writes its instruction's bytes, whose nibbles the reference decoder reads back. -/
theorem codecRoundTrip : Obligations.CodecRoundTrip := by
  unfold Obligations.CodecRoundTrip
  refine ⟨fun l c h8 hmax hc => ?ff, fun sn c hsn hc => ?cf, fun p hmin hmax => ?sf⟩
  case ff =>
    refine ⟨_, encodeFirstFrame_of_legal h8 hmax hc, ?_⟩
    simp [encode, decodeFirstFrame, length_of_parts, -BitVec.extractLsb'_toNat]
    omega
  case cf =>
    refine ⟨_, encodeConsecutiveFrame_of_legal hsn hc, ?_⟩
    simp [encode, decodeConsecutiveFrame]
    omega
  case sf =>
    refine ⟨_, encodeSingleFrame_eq hmin hmax, ?_⟩
    have hlen := ofNat4_toNat_of_le (n := p.length) (by omega)
    simp only [encode, pad8, List.cons_append, decodeSingleFrame, hiNibble_append, loNibble_append, hlen]
    rw [if_pos ⟨trivial, hmin, hmax⟩, List.take_left]

/-- A byte of two nibbles as a number: its quotient and its remainder by 16 (rule R9). -/
theorem pci_parts (type low : Nibble) :
    (type ++ low : Byte).toNat / 16 = type.toNat ∧ (type ++ low : Byte).toNat % 16 = low.toNat := by
  rw [← hiNibble_toNat, ← loNibble_toNat, hiNibble_append, loNibble_append]
  exact ⟨rfl, rfl⟩

/-- Settles O7: each encoder writes its instruction's bytes, and their first byte is made of the two nibbles. -/
theorem encodersGiveTheirTypes : Obligations.EncodersGiveTheirTypes := by
  unfold Obligations.EncodersGiveTheirTypes
  refine ⟨fun p hmin hmax => ?sf, fun l c h8 hmax hc => ?ff, fun sn c hsn hc => ?cf⟩
  case sf =>
    obtain ⟨htype, hlow⟩ := pci_parts 0x0#4 (BitVec.ofNat 4 p.length)
    refine ⟨_, _, encodeSingleFrame_eq hmin hmax, htype, ?_, ?_, decodeFlowControl_of_type_ne_three _ (by simp)⟩
    · rw [hlow, ofNat4_toNat_of_le (by omega)]
    · simp; omega
  case ff =>
    obtain ⟨htype, hlow⟩ := pci_parts 0x1#4 ((BitVec.ofNat 12 l).extractLsb' 8 4)
    obtain ⟨hhi, hlo⟩ := length_parts (BitVec.ofNat 12 l)
    rw [ofNat12_toNat_of_le hmax] at hhi hlo
    refine ⟨_, _, _, encodeFirstFrame_of_legal h8 hmax hc, htype, ?_, hc,
      decodeFlowControl_of_type_ne_three _ (by simp)⟩
    rw [hlow, hhi, hlo]
    omega
  case cf =>
    obtain ⟨htype, hlow⟩ := pci_parts 0x2#4 (BitVec.ofNat 4 sn)
    refine ⟨_, _, encodeConsecutiveFrame_of_legal hsn hc, htype, ?_, ?_,
      decodeFlowControl_of_type_ne_three _ (by simp)⟩
    · rw [hlow, ofNat4_toNat_of_le hsn]
    · simp; omega

end Sys2Proof.Proofs.Encoding
end

section
/-! PROOFS. One step: which frame is fetched and run, what a send and a delivered frame do to the state, and what they
leave unchanged. -/

namespace Sys2Proof.Proofs.OneStep
open Sys2Proof.Machine Sys2Proof.Laws Sys2Proof.Proofs.Encoding Sys2Proof.Proofs.Transmission

/-! ## The host's events -/

/-- Settles O10: the next state is `createSession`, whose update names the registers of rule R143 only. -/
theorem startWritesNothingElse : Obligations.StartWritesNothingElse := by
  unfold Obligations.StartWritesNothingElse
  intro s cmd hhost hidle hmin hmax
  exact ⟨_, (step_of_start hhost).trans (start_of_legal hidle hmin hmax), rfl⟩

/-- Settles O12: both tests of START come before anything else. -/
theorem startRefusedWhenBusyOrEmpty : Obligations.StartRefusedWhenBusyOrEmpty := by
  unfold Obligations.StartRefusedWhenBusyOrEmpty
  intro s cmd hhost
  rw [step_of_start hhost, State.start]
  constructor
  · intro hbusy
    exact if_pos hbusy
  · intro hidle hempty
    exact (if_neg (ne_true_of_eq_false hidle)).trans (if_pos (by simp [hempty]))

theorem step_of_reset {s : State} (h : s.nextInput.host = some .reset) : step s = .next s.afterInput.powerOn := by
  simp only [step, h]

/-- Settles O13: the next state is `powerOn`, and the recurring inputs have turned by one. -/
theorem resetEventGivesPowerOnState : Obligations.ResetEventGivesPowerOnState := by
  unfold Obligations.ResetEventGivesPowerOnState
  intro s hhost
  exact ⟨_, step_of_reset hhost, rfl, rfl, rfl, rfl, rfl, rfl, rfl, rfl, mem_nextRecurring s, rfl, rfl⟩

/-! ## Fetching -/

/-- With no host event the step is the block's. -/
theorem step_of_quiet {s : State} (h : hostQuiet s) : step s = blockStep s.nextInput.recvNone s.afterInput := by
  unfold hostQuiet at h
  simp only [step, h]

/-- A fetched frame that decodes is run. -/
theorem blockStep_of_fetch {rn : Bool} {s t : State} {dir : Direction} {d : List Byte} {i : Instr}
    (hf : fetch rn s = .frame dir d t) (hd : decode dir d = .ok i) : blockStep rn s = exec i t := by
  simp only [blockStep, hf, runFrame, hd]

theorem fetch_sf {rn : Bool} {s : State} {d : List Byte} (hs : s.state = .sendingSingleFrame)
    (hb : s.builtSf = .ok d) : fetch rn s = .frame .tx d s := by
  simp only [fetch, hs, hb, fetchBuilt]

theorem fetch_ff {rn : Bool} {s : State} {d : List Byte} (hs : s.state = .sendingFirstFrame)
    (hb : s.builtFf = .ok d) : fetch rn s = .frame .tx d s := by
  simp only [fetch, hs, hb, fetchBuilt]

theorem fetch_cf {rn : Bool} {s : State} {d : List Byte} (hs : s.state = .sendingConsecutiveFrames)
    (hb : s.builtCf = .ok d) : fetch rn s = .frame .tx d s := by
  simp only [fetch, hs, hb, fetchBuilt]

/-- The state in which a delivered frame runs: the call is recorded and the frame consumed (rules R64, R147). -/
abbrev delivered (s : State) (d : List Byte) (rest : List (List Byte)) : State :=
  { s.recvAnswered (some d) with rxQueue := rest }

/-- The oldest frame is delivered while the window is open (rule R147). -/
theorem fetch_delivered {s : State} {d : List Byte} {rest : List (List Byte)} (hs : s.state = .awaitingFlowControl)
    (hq : s.rxQueue = d :: rest) (hw : s.now ≤ s.fcDeadline) : fetch false s = .frame .rx d (delivered s d rest) := by
  have hopen : ¬(false = true ∨ s.fcDeadline < s.now) := by simpa using hw
  simp only [fetch, hs, State.busRecv, hq, if_neg hopen]

/-- `BusRecv` answers `None` (rules R147, R194, R198). -/
theorem fetch_timedOut {rn : Bool} {s : State} (hs : s.state = .awaitingFlowControl)
    (h : rn = true ∨ s.fcDeadline < s.now ∨ (s.rxQueue = [] ∧ s.fcDeadline ≤ s.now)) :
    fetch rn s = .timedOut (s.recvAnswered none) := by
  have hrecv : s.busRecv rn = .timedOut (s.recvAnswered none) := by
    unfold State.busRecv
    cases hq : s.rxQueue with
    | nil => exact if_pos (h.imp_right fun h => h.elim le_of_lt And.right)
    | cons d rest => exact if_pos (h.imp_right fun h => h.resolve_right fun h => by simp [hq] at h)
  simp only [fetch, hs, hrecv]

/-- The block stays inside `BusRecv` (rule R147). -/
theorem fetch_pending {s : State} (hs : s.state = .awaitingFlowControl) (hq : s.rxQueue = [])
    (hw : s.now < s.fcDeadline) : fetch false s = .waits := by
  have hopen : ¬(false = true ∨ s.fcDeadline ≤ s.now) := by simpa using hw
  simp only [fetch, hs, State.busRecv, hq, if_neg hopen]

theorem fetch_of_not_busy {rn : Bool} {s : State} (h : s.busy = false) : fetch rn s = .waits := by
  unfold fetch
  cases hs : s.state with
  | idle | done | error k => rfl
  | sendingSingleFrame | sendingFirstFrame | awaitingFlowControl | sendingConsecutiveFrames =>
    simp [busy_of_state hs, MState.busy] at h

theorem blockStep_of_waits {rn : Bool} {s : State} (h : fetch rn s = .waits) : blockStep rn s = .next s.wait := by
  simp only [blockStep, h]

theorem blockStep_of_timedOut {rn : Bool} {s t : State} (h : fetch rn s = .timedOut t) :
    blockStep rn s = .next t.timeout := by
  simp only [blockStep, h]

/-- Settles O8: each sending state fetches the frame it builds, and AwaitingFlowControl the oldest of the queue. -/
theorem stepRunsDecodedInstruction : Obligations.StepRunsDecodedInstruction := by
  unfold Obligations.StepRunsDecodedInstruction
  intro s i d hquiet
  rw [step_of_quiet hquiet]
  refine ⟨fun hs hb hd => blockStep_of_fetch (fetch_sf hs hb) hd,
    fun hs hb hd => blockStep_of_fetch (fetch_ff hs hb) hd,
    fun hs hb hd => blockStep_of_fetch (fetch_cf hs hb) hd, fun rest hs hq hrn hw hd => ?_⟩
  rw [hrn]
  exact blockStep_of_fetch (fetch_delivered (s := s.afterInput) hs hq hw) hd

/-- Settles O26: `BusRecv` answers `None` in each case, and the two flags choose the code. -/
theorem timeoutRaisesItsStatus : Obligations.TimeoutRaisesItsStatus := by
  unfold Obligations.TimeoutRaisesItsStatus
  intro s hquiet hs hnone
  refine ⟨_, (step_of_quiet hquiet).trans (blockStep_of_timedOut (fetch_timedOut (s := s.afterInput) hs hnone)), rfl,
    ?_, rfl⟩
  simp only [State.status, timeout_result, recvAnswered_granted, recvAnswered_waitSeen, afterInput_granted,
    afterInput_waitSeen]
  cases s.granted <;> cases s.waitSeen <;> rfl

/-- Settles O27: `BusRecv` is pending, and the step is the wait. -/
theorem openWindowWaits : Obligations.OpenWindowWaits := by
  unfold Obligations.OpenWindowWaits
  intro s hquiet hs hrn hq hw
  refine ⟨s.afterInput.wait, ?_, ?_, rfl⟩
  · rw [step_of_quiet hquiet, hrn]
    exact blockStep_of_waits (fetch_pending (s := s.afterInput) hs hq hw)
  · rw [wait_now, afterInput_now]
    omega

/-- Settles O31: nothing is fetched in a terminal state. -/
theorem terminalStatesOnlyWait : Obligations.TerminalStatesOnlyWait := by
  unfold Obligations.TerminalStatesOnlyWait
  intro s hquiet hidle
  refine ⟨s.afterInput.wait, ?_, ?_, rfl⟩
  · rw [step_of_quiet hquiet]
    exact blockStep_of_waits (fetch_of_not_busy (s := s.afterInput) hidle)
  · rw [wait_now, afterInput_now]
    omega

/-! ## Delivered frames -/

/-- What no delivered frame writes: all but the state and the registers of the grant, the window and the result (rules
R148 to R152). -/
structure KeptByReceiving (s t : State) : Prop where
  payload : t.payload = s.payload
  totalLen : t.totalLen = s.totalLen
  consumed : t.consumed = s.consumed
  seq : t.seq = s.seq
  txId : t.txId = s.txId
  fcId : t.fcId = s.fcId
  verbose : t.verbose = s.verbose
  len : t.len = s.len
  nBs : t.nBs = s.nBs
  sendTimeout : t.sendTimeout = s.sendTimeout
  tLast : t.tLast = s.tLast
  now : t.now = s.now
  rxQueue : t.rxQueue = s.rxQueue
  sendAnswers : t.sendAnswers = s.sendAnswers
  inputs : t.inputs = s.inputs
  recurring : t.recurring = s.recurring
  bus : t.bus = s.bus
  log : t.log = s.log

theorem kept_of_rxEffect {s t : State} (h : RxEffect s t) : KeptByReceiving s t := by
  obtain rfl | rfl | rfl | ⟨bs, st, rfl⟩ := h <;> constructor <;> rfl

/-- Settles O28: with `recvNone` false the frame is delivered and its meaning keeps the record and the queue; with
`recvNone` true `BusRecv` answers `None`. -/
theorem deadlineTieAdmitsBoth : Obligations.DeadlineTieAdmitsBoth := by
  unfold Obligations.DeadlineTieAdmitsBoth
  intro s inp rest d q hs hin hhost hq hlen htie
  constructor
  case left =>
    obtain ⟨i, hdec, hdir⟩ := decode_rx_total hlen
    obtain ⟨t, hexec, heffect⟩ := exec_rx hdir (s := delivered
      ({ s with inputs := { inp with recvNone := false } :: rest } : State).afterInput d q) hs
    refine ⟨t, ?_, ?_, (kept_of_rxEffect heffect).rxQueue⟩
    · rw [step_of_quiet (by exact hhost)]
      refine (blockStep_of_fetch (fetch_delivered ?_ ?_ ?_) hdec).trans hexec
      · exact hs
      · exact hq
      · exact le_of_eq htie
    · rw [(kept_of_rxEffect heffect).bus]
      simp [State.nextInput, htie]
  case right =>
    refine ⟨(({ s with inputs := { inp with recvNone := true } :: rest } : State).afterInput.recvAnswered none).timeout,
      ?_, ?_, hq, rfl⟩
    · rw [step_of_quiet (by exact hhost)]
      exact blockStep_of_timedOut (fetch_timedOut (by exact hs) (.inl rfl))
    · simp [State.nextInput, htie]

/-- Settles O22: the step raises the error, whose code goes by `S.granted`. -/
theorem overflowAborts : Obligations.OverflowAborts := by
  unfold Obligations.OverflowAborts
  intro s bs st rest hs
  refine ⟨s.overflow, whenAwaiting_of_awaiting hs _, rfl, ?_, rfl⟩
  rw [State.status, overflow_result]
  cases s.granted <;> rfl

/-- Settles O25: every meaning tests its state first. -/
theorem framesNeedTheirState : Obligations.FramesNeedTheirState := by
  unfold Obligations.FramesNeedTheirState
  intro s
  refine ⟨fun hs p => if_neg hs, fun hs l c => if_neg hs, fun hs sn c => if_neg hs, fun hs i hi => ?_⟩
  cases i with
  | sf | ff | cf => cases hi
  | fcCts | fcWait | fcOvfl | fcUnknown3 | fcUnknown4to7 | fcUnknown8to15 | rxType0to1 | rxType2 | rxType4to7
  | rxType8to15 | rxShort => exact if_neg hs

/-- Settles O30: the common part is `kept_of_rxEffect`; each of the three meaning-bearing rows writes its own registers,
and the others are discards. -/
theorem frameOfReceivedInstructions : Obligations.FrameOfReceivedInstructions := by
  unfold Obligations.FrameOfReceivedInstructions
  intro i s t hdir h
  obtain ⟨htx, -⟩ | ⟨-, hs, heffect⟩ := exec_next h
  · rw [hdir] at htx; cases htx
  have hdiscard (hi : i.mnemonic = .fcUnknown ∨ i.mnemonic = .rxNotFc) : t = s :=
    Host.Outcome.next.inj (h.symm.trans (exec_of_discarded hi hs))
  have hkeep := kept_of_rxEffect heffect
  refine ⟨fun a => by rw [hkeep.payload], hkeep.totalLen, hkeep.consumed, hkeep.seq, hkeep.txId, hkeep.fcId,
    hkeep.verbose, hkeep.len, hkeep.nBs, hkeep.sendTimeout, hkeep.tLast, hkeep.now, hkeep.rxQueue, hkeep.sendAnswers,
    hkeep.inputs, hkeep.recurring, hkeep.bus, hkeep.log, ?_⟩
  cases i with
  | sf | ff | cf => cases hdir
  | fcCts | fcWait | fcOvfl =>
    obtain ⟨-, rfl⟩ := whenAwaiting_next h
    simp [Instr.mnemonic]
  | fcUnknown3 | fcUnknown4to7 | fcUnknown8to15 => simp [hdiscard (.inl rfl)]
  | rxType0to1 | rxType2 | rxType4to7 | rxType8to15 | rxShort => simp [hdiscard (.inr rfl)]

end Sys2Proof.Proofs.OneStep
end

section
/-! PROOFS. The emitted frames FF and CF as the spec writes their bytes, what SF, FF and CF do after their send, and
that a failed send differs in the trace and the record only (rules R144, R145, R154, R157). -/

namespace Sys2Proof.Proofs.Emission
open Sys2Proof.Machine Sys2Proof.Proofs.Encoding Sys2Proof.Proofs.Transmission

/-! ## The bytes -/

/-- A byte from its two nibbles, as a number (rule R9). -/
theorem pci_eq (type low : Nibble) : (type ++ low : Byte) = BitVec.ofNat 8 (16 * type.toNat + low.toNat) := by
  revert type low; decide

/-- The bytes of a First Frame (rule R73). -/
theorem encode_ff_eq (l : BitVec 12) (c : List Byte) :
    encode (.ff l c) = BitVec.ofNat 8 (0x10 + l.toNat / 256) :: BitVec.ofNat 8 (l.toNat % 256) :: c := by
  obtain ⟨hhi, hlo⟩ := length_parts l
  rw [encode, pci_eq, hhi, ← hlo, BitVec.ofNat_toNat, BitVec.setWidth_eq]
  rfl

/-- The bytes of a Consecutive Frame (rule R74). -/
theorem encode_cf_eq (sn : Nibble) (data : List Byte) :
    encode (.cf sn data) = BitVec.ofNat 8 (0x20 + sn.toNat) :: data := by
  rw [encode, pci_eq]
  rfl

/-! ## The sends -/

/-- A send with its trace line, as one update (rules R133, R157, R197). -/
theorem sentLogged_eq (s : State) (d : List Byte) (a : SendAnswer) (e : LogEvent) :
    s.sentLogged d a e = { s with
      now := s.now + a.took
      tLast := s.now + a.took
      sendAnswers := s.sendAnswers.tail
      bus := s.bus ++ [.send s.now s.txId d a.result]
      log := s.log ++ if a.result = .sendFailed then [e] else [] } :=
  logFailure_eq _ _ _

/-- The frame the block builds in `SendingFirstFrame` is emitted (rule R145). -/
theorem exec_ff_of_built {s : State} {l : BitVec 12} {c : List Byte} (hs : s.state = .sendingFirstFrame)
    (hb : s.builtFf = .ok (encode (.ff l c))) :
    exec (.ff l c) s = s.emit (encode (.ff l c)) .sendFailedFf State.afterFf := by
  rw [exec, execFf, if_pos hs, hb, whenBuilt_self]

/-- The frame the block builds in `SendingConsecutiveFrames` is emitted when the pacing guard lets it (rule R154). -/
theorem exec_cf_of_ready {s : State} {sn : Nibble} {data : List Byte} (hs : s.state = .sendingConsecutiveFrames)
    (hb : s.builtCf = .ok (encode (.cf sn data))) (hp : s.tLast + s.sepUs.toNat ≤ s.now) :
    exec (.cf sn data) s = s.emit (encode (.cf sn data)) (.sendFailedCf s.seq) State.afterCf := by
  rw [exec, execCf, if_pos hs, hb, whenBuilt_self, if_pos ((pacingReady_iff s).mpr hp)]

/-- It is held before that (rule R131). -/
theorem exec_cf_of_early {s : State} {sn : Nibble} {data : List Byte} (hs : s.state = .sendingConsecutiveFrames)
    (hb : s.builtCf = .ok (encode (.cf sn data))) (hp : s.now < s.tLast + s.sepUs.toNat) :
    exec (.cf sn data) s = .next s.wait := by
  rw [exec, execCf, if_pos hs, hb, whenBuilt_self, if_neg (mt (pacingReady_iff s).mp (not_le.mpr hp))]

/-- Without an answer a send is held (rule R217, log entry 6). -/
theorem emit_of_unanswered {s : State} (h : s.sendAnswers = []) (d : List Byte) (e : LogEvent)
    (after : State → State) : s.emit d e after = .next s.wait := by
  simp only [State.emit, h]

/-- Settles O15: the block builds the frame from the payload it reads, and the send is followed by `enterAwait`. -/
theorem firstFrameIsSent : Obligations.FirstFrameIsSent := by
  unfold Obligations.FirstFrameIsSent
  intro s chunk a rest hs h8 hchunk hread hanswer
  have hmem : s.memRead 0 6 = .ok chunk := by
    rw [memRead_ok_iff]
    exact ⟨by omega, by omega, hchunk, by simpa using hread⟩
  rw [exec_ff_of_built hs (builtFf_eq hmem h8), emit_of_answer hanswer, encode_ff_eq, sentLogged_eq, hanswer]
  rfl

/-- A chunk that does not pass the end leaves the 12 bits of `S.consumed` unwrapped (rules R154, R163). -/
theorem toNat_add_chunkLen {s : State} (h : s.consumed.toNat ≤ s.totalLen.toNat) :
    (s.consumed + BitVec.ofNat 12 s.chunkLen).toNat = s.consumed.toNat + s.chunkLen := by
  have := s.totalLen.isLt
  have : s.chunkLen ≤ s.totalLen.toNat - s.consumed.toNat := Nat.min_le_right _ _
  rw [BitVec.toNat_add, BitVec.toNat_ofNat]
  omega

/-- The countdown reaches 0 from 1 (rules R24, R154). -/
theorem sub_one_eq_zero_iff (n : Byte) : n - 1#8 = 0#8 ↔ n.toNat = 1 := by
  revert n; decide

theorem toNat_sub_one {n : Byte} (h : 1 ≤ n.toNat) : (n - 1#8).toNat = n.toNat - 1 := by
  rw [BitVec.toNat_sub]
  have := n.isLt
  simp; omega

/-- The sequence number counts modulo 16 (rule R164). -/
theorem toNat_seq_succ (n : Nibble) : (n + 1#4).toNat = (n.toNat + 1) % 16 :=
  BitVec.toNat_add n 1#4

/-- Settles O16: the block builds the frame from the chunk it reads; `afterCf_eq` is the rest of the step, its
conditions read as numbers. -/
theorem consecutiveFrameIsSent : Obligations.ConsecutiveFrameIsSent := by
  unfold Obligations.ConsecutiveFrameIsSent
  intro s chunk a rest hs hlt hchunk hread hready hanswer
  have hmem : s.memRead s.consumed.toNat s.chunkLen = .ok chunk := by
    rw [memRead_ok_iff]
    have hlen : chunk.length = s.chunkLen := hchunk
    exact ⟨by omega, by omega, hlen, hlen ▸ hread⟩
  have hadd : (s.consumed + BitVec.ofNat 12 s.chunkLen).toNat = s.consumed.toNat + chunk.length := by
    rw [toNat_add_chunkLen hlt.le, hchunk]; rfl
  have hend : s.consumed + BitVec.ofNat 12 s.chunkLen = s.totalLen ↔
      s.consumed.toNat + chunk.length = s.totalLen.toNat := by
    rw [← hadd, BitVec.toNat_inj]
  refine ⟨_, (exec_cf_of_ready hs (builtCf_eq hmem) hready).trans (emit_of_answer hanswer _ _ _), ?_⟩
  rw [sentLogged_eq, hanswer, afterCf_eq, encode_cf_eq]
  refine ⟨toNat_seq_succ _, hadd, fun hu => if_pos hu, fun hu h1 => ?countdown, rfl, rfl, rfl, rfl, rfl, ?ways, rfl⟩
  case countdown =>
    exact (congrArg BitVec.toNat (if_neg (ne_true_of_eq_false hu))).trans (toNat_sub_one h1)
  case ways =>
    have hblock : (s.bsUnlimited = false ∧ s.bsRem - 1#8 = 0#8) ↔ (s.bsUnlimited = false ∧ s.bsRem.toNat = 1) := by
      rw [sub_one_eq_zero_iff]
    by_cases hdone : s.consumed.toNat + chunk.length = s.totalLen.toNat
    · rw [if_pos hdone]
      have hdone := hend.mpr hdone
      exact ⟨if_pos hdone, congrArg (Option.map Status.code) (if_pos hdone), if_neg fun h => h.1 hdone,
        if_neg fun h => h.1 hdone⟩
    · rw [if_neg hdone]
      have hmore := mt hend.mp hdone
      by_cases hused : s.bsUnlimited = false ∧ s.bsRem.toNat = 1
      · rw [if_pos hused]
        have hused := hblock.mpr hused
        exact ⟨(if_neg hmore).trans (if_pos hused), if_neg hmore, if_pos ⟨hmore, hused⟩, if_pos ⟨hmore, hused⟩⟩
      · rw [if_neg hused]
        have hleft := mt hblock.mp hused
        exact ⟨(if_neg hmore).trans (if_neg hleft), if_neg hmore, if_neg fun h => hleft h.2,
          if_neg fun h => hleft h.2⟩

/-- Settles O17: the guard is false, and the step is the wait. -/
theorem pacingGuardHoldsConsecutiveFrame : Obligations.PacingGuardHoldsConsecutiveFrame := by
  unfold Obligations.PacingGuardHoldsConsecutiveFrame
  intro s sn data hs hb hearly
  exact ⟨s.wait, exec_cf_of_early hs hb hearly, Nat.le_succ _, rfl⟩

/-- Settles O18: without an answer each send is the wait, and so is a Consecutive Frame the guard holds. -/
theorem unansweredSendIsHeld : Obligations.UnansweredSendIsHeld := by
  unfold Obligations.UnansweredSendIsHeld
  intro s d hanswer
  refine ⟨fun hs p hb => ⟨s.wait, ?sf, rfl⟩, fun hs l c hb => ⟨s.wait, ?ff, rfl⟩, fun hs sn hb => ⟨s.wait, ?cf, rfl⟩⟩
  case sf => rw [exec_sf_of_built hs hb, emit_of_unanswered hanswer]
  case ff => rw [exec_ff_of_built hs hb, emit_of_unanswered hanswer]
  case cf =>
    by_cases hready : s.tLast + s.sepUs.toNat ≤ s.now
    · rw [exec_cf_of_ready hs hb hready, emit_of_unanswered hanswer]
    · exact exec_cf_of_early hs hb (not_le.mp hready)

/-! ## A failed send -/

/-- The rest of a step reads neither the trace nor the record and adds to neither. -/
def RecordBlind (after : State → State) : Prop :=
  ∀ (s : State) (bus : List BusEvent) (log : List LogEvent),
    after { s with bus := bus, log := log } = { after s with bus := bus, log := log }

theorem afterSf_recordBlind : RecordBlind State.afterSf := fun _ _ _ => rfl

theorem afterFf_recordBlind : RecordBlind State.afterFf := fun _ _ _ => rfl

theorem afterCf_recordBlind : RecordBlind State.afterCf := fun s bus log => by
  rw [afterCf_eq, afterCf_eq s]
  rfl

/-- The adapter answers the next send with this result instead. -/
abbrev withNextAnswer (s : State) (r : SendResult) (took : Nat) (rest : List SendAnswer) : State :=
  { s with sendAnswers := { result := r, took := took } :: rest }

/-- A Consecutive Frame is built from the chunk that is read, under the present sequence number (rule R154). -/
theorem builtCf_inv {s : State} {d : List Byte} (h : s.builtCf = .ok d) :
    ∃ c, s.memRead s.consumed.toNat s.chunkLen = .ok c ∧ d = encode (.cf s.seq (cfData c)) := by
  cases hm : s.memRead s.consumed.toNat s.chunkLen with
  | error e => simp [State.builtCf, hm] at h
  | ok c => exact ⟨c, rfl, Except.ok.inj (h.symm.trans (builtCf_eq hm))⟩

theorem seq_of_builtCf {s : State} {sn : Nibble} {data : List Byte} (h : s.builtCf = .ok (encode (.cf sn data))) :
    sn = s.seq := by
  obtain ⟨c, -, hd⟩ := builtCf_inv h
  have hpci : (0x2#4 ++ sn : Byte) = 0x2#4 ++ s.seq := (List.cons.inj hd).1
  rw [← loNibble_append 0x2#4 sn, hpci, loNibble_append]

/-- An instruction that is an `emit` under either answer, with a rest of the step that is blind to the trace and the
record: the answer `SendFailed` adds its event, and the call is recorded with it (rule R157). -/
theorem exec_failed {i : Instr} {s t : State} {took : Nat} {rest : List SendAnswer} {d : List Byte} {e : LogEvent}
    {after : State → State} (hblind : RecordBlind after)
    (ha : s.sendAnswers = { result := .ok, took := took } :: rest) (hok : exec i s = s.emit d e after)
    (hfail : exec i (withNextAnswer s .sendFailed took rest) = (withNextAnswer s .sendFailed took rest).emit d e after)
    (hf : failureOf i = some e) (h : exec i s = .next t) :
    ∃ d e, failureOf i = some e ∧ t.log = s.log ∧ t.bus = s.bus ++ [.send s.now s.txId d .ok] ∧
      exec i (withNextAnswer s .sendFailed took rest) = .next { t with
        log := s.log ++ [e]
        bus := s.bus ++ [.send s.now s.txId d .sendFailed] } := by
  have hkeep (u : State) : after u = { after u with bus := u.bus, log := u.log } := hblind u u.bus u.log
  rw [hok, emit_of_answer ha] at h
  cases h
  refine ⟨d, e, hf, ?_, ?_, ?_⟩
  · rw [congrArg State.log (hkeep _), sentLogged_eq]
    exact List.append_nil _
  · rw [congrArg State.bus (hkeep _), sentLogged_eq]
  · rw [hfail, emit_of_answer rfl, sentLogged_eq, sentLogged_eq, ← hblind]
    simp [ha]

/-- Settles O19: each of the three frames is an `emit` under either answer; a Consecutive Frame the guard holds makes no
call. -/
theorem sendFailureOnlyLogs : Obligations.SendFailureOnlyLogs := by
  unfold Obligations.SendFailureOnlyLogs
  intro i s t took rest hdir ha h hbus
  cases i with
  | sf p =>
    obtain ⟨hs, hb, -⟩ := execSf_next h
    exact exec_failed afterSf_recordBlind ha (exec_sf_of_built hs hb) (exec_sf_of_built hs hb) rfl h
  | ff l c =>
    obtain ⟨hs, hb, -⟩ := execFf_next h
    exact exec_failed afterFf_recordBlind ha (exec_ff_of_built hs hb) (exec_ff_of_built hs hb) rfl h
  | cf sn data =>
    obtain ⟨hs, hb, ⟨-, rfl⟩ | ⟨-, -, hready, -, -⟩⟩ := execCf_next h
    · exact absurd rfl hbus
    · have hready := (pacingReady_iff s).mp hready
      exact exec_failed afterCf_recordBlind ha (exec_cf_of_ready hs hb hready) (exec_cf_of_ready hs hb hready)
        (by rw [failureOf, seq_of_builtCf hb]) h
  | fcCts | fcWait | fcOvfl | fcUnknown3 | fcUnknown4to7 | fcUnknown8to15 | rxType0to1 | rxType2 | rxType4to7
  | rxType8to15 | rxShort => cases hdir

/-! ## What a send leaves unchanged -/

/-- Settles O29: a held frame changes the clock only; else the state is the send's with the rest of the step, both given
as one update. -/
theorem frameOfEmittingInstructions : Obligations.FrameOfEmittingInstructions := by
  unfold Obligations.FrameOfEmittingInstructions
  intro i s t hdir h
  cases i with
  | sf p =>
    obtain ⟨-, -, ⟨-, rfl⟩ | ⟨a, rest, -, rfl⟩⟩ := execSf_next h
    · simp
    · simp [sentLogged_eq, State.afterSf, State.finish]
  | ff l c =>
    obtain ⟨-, -, ⟨-, rfl⟩ | ⟨a, rest, -, rfl⟩⟩ := execFf_next h
    · simp
    · simp [sentLogged_eq, State.afterFf, State.enterAwait]
  | cf sn data =>
    obtain ⟨-, -, ⟨-, rfl⟩ | ⟨a, rest, -, -, rfl⟩⟩ := execCf_next h
    · simp
    · obtain ⟨-, ht⟩ | ⟨-, -, -, ht⟩ | ⟨-, -, ht⟩ :=
        afterCf_cases (s.sentLogged (encode (.cf sn data)) a (.sendFailedCf s.seq)) <;>
      · rw [ht, sentLogged_eq]
        simp +contextual [Instr.mnemonic]
  | fcCts | fcWait | fcOvfl | fcUnknown3 | fcUnknown4to7 | fcUnknown8to15 | rxType0to1 | rxType2 | rxType4to7
  | rxType8to15 | rxShort => cases hdir

end Sys2Proof.Proofs.Emission
end

section
/-! PROOFS. The invariant of rules R25, R26 and R45: it holds after power-on, each operation keeps it, and a state that
meets it has a step for every legal input. -/

namespace Sys2Proof.Proofs.Invariant
open Sys2Proof.Machine Sys2Proof.Laws Sys2Proof.Proofs.Encoding Sys2Proof.Proofs.Transmission
open Sys2Proof.Proofs.OneStep Sys2Proof.Proofs.Emission

/-- Settles O32: in `Idle` nothing has been received, sent or begun. -/
theorem resetMeetsInvariant : Obligations.ResetMeetsInvariant where
  payload_wf := List.Pairwise.nil
  payload_listed := rfl
  queue_fits := by decide
  arrivals_fit := by decide
  recurring_fit := by decide
  sent_full := fun _ he => absurd he List.not_mem_nil
  last_past := le_rfl
  window := nofun
  result_none := by decide
  result_done := nofun
  result_error := nofun
  consumed_le := le_rfl
  busy_len := nofun
  single := nofun
  first := nofun
  midway := by rintro (h | h) <;> cases h
  countdown := nofun
  separation := ⟨0#8, rfl⟩

section
variable {s : State} (h : Inv s)
include h

/-- After power-on only the other agents' state is left of `s`. -/
theorem inv_powerOn : Inv s.powerOn :=
  { resetMeetsInvariant with
    queue_fits := h.queue_fits
    arrivals_fit := h.arrivals_fit
    recurring_fit := h.recurring_fit
    sent_full := h.sent_full
    last_past := Nat.zero_le _
    window := nofun }

theorem inv_wait : Inv s.wait :=
  { h with
    last_past := h.last_past.trans (Nat.le_succ _)
    window := fun hs => (h.window hs).trans (Nat.add_le_add_right (Nat.le_succ _) _) }

/-- Taking an error needs a code of its kind only (rule R187). -/
theorem inv_raiseError {k : ErrorKind} {st : Status} (hk : st.kind = some k) : Inv (s.raiseError k st) :=
  { h with
    window := nofun
    result_none := by simp [State.busy, MState.busy]
    result_done := nofun
    result_error := fun _ hs => ⟨st, rfl, by cases hs; exact hk⟩
    busy_len := nofun
    single := nofun
    first := nofun
    midway := by rintro (h | h) <;> cases h
    countdown := nofun }

/-- The session START creates with a legal payload (rule R143). -/
theorem inv_createSession {cmd : StartCommand} (hmin : 1 ≤ cmd.payload.length) (hmax : cmd.payload.length ≤ 4095) :
    Inv (s.createSession cmd) := by
  have hbusy : (s.createSession cmd).busy = true := by
    simp only [State.busy, createSession_state]; split_ifs <;> rfl
  have hstate {m : MState} (hm : (s.createSession cmd).state = m) :
      m = .sendingSingleFrame ∧ cmd.payload.length ≤ 7 ∨ m = .sendingFirstFrame ∧ 7 < cmd.payload.length := by
    rw [createSession_state] at hm
    split_ifs at hm with h7
    · exact .inl ⟨hm.symm, h7⟩
    · exact .inr ⟨hm.symm, not_le.mp h7⟩
  exact { h with
    payload_wf := ofBytes_wf _
    payload_listed := ofBytes_addresses _
    window := fun hs => absurd (hstate hs) (by simp)
    result_none := by simp [hbusy]
    result_done := fun hs => absurd (hstate hs) (by simp)
    result_error := fun _ hs => absurd (hstate hs) (by simp)
    consumed_le := Nat.zero_le _
    busy_len := fun _ => ⟨ofNat12_toNat_of_le hmax, hmin⟩
    single := fun hs => ⟨by simpa using hstate hs, rfl⟩
    first := fun hs => ⟨by simpa [Nat.succ_le_iff] using hstate hs, rfl, rfl⟩
    midway := fun hs => by rcases hs with hs | hs <;> exact absurd (hstate hs) (by simp)
    countdown := fun hs => absurd (hstate hs) (by simp)
    separation := ⟨0#8, rfl⟩ }

/-! ### The sends -/

/-- A send of eight bytes, before the rest of its step. -/
theorem inv_sentLogged {d : List Byte} (hd : d.length = 8) (a : SendAnswer) (e : LogEvent) :
    Inv (s.sentLogged d a e) := by
  rw [sentLogged_eq]
  exact { h with
    sent_full := fun b hb => by
      rcases List.mem_append.mp hb with hb | hb
      · exact h.sent_full b hb
      · rw [List.mem_singleton.mp hb]; exact hd
    last_past := le_rfl
    window := fun hs => (h.window hs).trans (by simp only; omega) }

/-- Finishing the session with `c` bytes counted (rule R156). -/
theorem inv_finish (c : BitVec 12) (q : Nibble) (r : Byte) (hc : c.toNat ≤ s.totalLen.toNat) :
    Inv ({ s with consumed := c, seq := q, bsRem := r } : State).finish :=
  { h with
    window := nofun
    result_none := by simp [State.busy, MState.busy]
    result_done := fun _ => rfl
    result_error := nofun
    consumed_le := hc
    busy_len := nofun
    single := nofun
    first := nofun
    midway := by rintro (h | h) <;> cases h
    countdown := nofun }

/-- Without a result no error and no end has been reached (rule R45). -/
theorem result_eq_none_of_busy (hb : s.busy = true) : s.result = none :=
  h.result_none.mpr (.inl hb)

theorem inv_afterSf : Inv s.afterSf :=
  inv_finish h s.totalLen s.seq s.bsRem le_rfl

theorem inv_afterFf (hs : s.state = .sendingFirstFrame) : Inv s.afterFf := by
  have hbusy := busy_of_state hs
  obtain ⟨h8, -, hseq⟩ := h.first hs
  obtain ⟨hlen, -⟩ := h.busy_len hbusy
  exact { h with
    window := fun _ => le_rfl
    result_none := by simp [State.busy, MState.busy, State.afterFf, result_eq_none_of_busy h hbusy]
    result_done := nofun
    result_error := nofun
    consumed_le := by simp [State.afterFf]; omega
    busy_len := fun _ => h.busy_len hbusy
    single := nofun
    first := nofun
    midway := fun _ => ⟨hlen ▸ h8, by simp [State.afterFf]; omega, 0, rfl, by simp [State.afterFf, hseq]⟩
    countdown := nofun }

/-- A chunk that does not end the payload is a full one, and leaves the counters in step (rules R45, R154). -/
theorem midway_counted (hs : s.state = .sendingConsecutiveFrames) (hmore : s.counted.consumed ≠ s.totalLen) :
    s.counted.consumed.toNat < s.totalLen.toNat ∧
      ∃ k, s.counted.consumed.toNat = 6 + 7 * k ∧ s.counted.seq.toNat = (1 + k) % 16 := by
  obtain ⟨-, hlt, k, hk, hseq⟩ := h.midway (.inr hs)
  have hadd : s.counted.consumed.toNat = s.consumed.toNat + s.chunkLen := toNat_add_chunkLen hlt.le
  have hchunk : s.chunkLen = min 7 (s.totalLen.toNat - s.consumed.toNat) := rfl
  have hne : s.counted.consumed.toNat ≠ s.totalLen.toNat := fun he => hmore (BitVec.eq_of_toNat_eq he)
  have hseq' : s.counted.seq.toNat = (s.seq.toNat + 1) % 16 := toNat_seq_succ _
  exact ⟨by omega, k + 1, by omega, by omega⟩

/-- The rest of `stepCF`: the end of the payload, of the block, or neither (rule R155). -/
theorem inv_afterCf (hs : s.state = .sendingConsecutiveFrames) : Inv s.afterCf := by
  have hbusy := busy_of_state hs
  have hnone := result_eq_none_of_busy h hbusy
  obtain ⟨h8, -⟩ := h.midway (.inr hs)
  obtain ⟨hdone, ht⟩ | ⟨hmore, -, -, ht⟩ | ⟨hmore, hblock, ht⟩ := afterCf_cases s
  case inl =>
    rw [ht]
    exact inv_finish h _ _ _ (le_of_eq (congrArg BitVec.toNat hdone))
  case inr.inl =>
    obtain ⟨hlt, hk⟩ := midway_counted h hs hmore
    rw [ht]
    exact { h with
      window := fun _ => le_rfl
      result_none := by simp [State.busy, MState.busy, hnone]
      result_done := nofun
      result_error := nofun
      consumed_le := hlt.le
      busy_len := fun _ => h.busy_len hbusy
      single := nofun
      first := nofun
      midway := fun _ => ⟨h8, hlt, hk⟩
      countdown := nofun }
  case inr.inr =>
    obtain ⟨hlt, hk⟩ := midway_counted h hs hmore
    obtain ⟨hgranted, -⟩ := h.countdown hs
    have hleft : s.counted.bsUnlimited = true ∨ 1 ≤ s.counted.bsRem.toNat := by
      rw [counted_bsUnlimited, counted_bsRem]
      cases hu : s.bsUnlimited with
      | true => exact .inl rfl
      | false =>
        have hr := hblock.resolve_left (by simp [hu])
        exact .inr (Nat.pos_of_ne_zero fun hz => hr (BitVec.eq_of_toNat_eq hz))
    rw [ht]
    exact { h with
      window := nofun
      result_none := by simp [State.busy, MState.busy, hnone]
      result_done := nofun
      result_error := nofun
      consumed_le := hlt.le
      busy_len := fun _ => h.busy_len hbusy
      single := nofun
      first := nofun
      midway := fun _ => ⟨h8, hlt, hk⟩
      countdown := fun _ => ⟨hgranted, hleft⟩ }

/-! ### The wait window -/

theorem inv_recvAnswered (a : Option (List Byte)) : Inv (s.recvAnswered a) :=
  { h with
    sent_full := fun b hb => by
      rcases List.mem_append.mp hb with hb | hb
      · exact h.sent_full b hb
      · rw [List.mem_singleton.mp hb]; trivial }

theorem inv_delivered {d : List Byte} {rest : List (List Byte)} (hq : s.rxQueue = d :: rest) :
    Inv (delivered s d rest) :=
  { inv_recvAnswered h (some d) with
    queue_fits := fun b hb => h.queue_fits b (hq ▸ List.mem_cons_of_mem d hb) }

theorem inv_waitMore (hs : s.state = .awaitingFlowControl) : Inv s.waitMore := by
  have hkeep : s.waitMore = { s with waitSeen := true, fcDeadline := s.now + s.nBs } := by
    simp [State.waitMore, ← hs]
  rw [hkeep]
  exact { h with window := fun _ => le_rfl }

/-- A grant counts at least one frame, and its separation time is the code's (rules R24, R25, R152). -/
theorem inv_grant (hs : s.state = .awaitingFlowControl) (bs st : Byte) :
    Inv (s.grant (blockLimit bs) (interpret st)) := by
  have hbusy := busy_of_state hs
  have hleft : (s.grant (blockLimit bs) (interpret st)).bsUnlimited = true ∨
      1 ≤ (s.grant (blockLimit bs) (interpret st)).bsRem.toNat := by
    by_cases hz : bs.toNat = 0
    · simp [blockLimit_of_zero hz]
    · have hpos : 1 ≤ bs.toNat := Nat.pos_of_ne_zero hz
      exact .inr (by rw [grant_bsRem, blockLimit_of_pos hpos]; exact hpos)
  exact { h with
    window := nofun
    result_none := by simp [State.busy, MState.busy, result_eq_none_of_busy h hbusy]
    result_done := nofun
    result_error := nofun
    busy_len := fun _ => h.busy_len hbusy
    single := nofun
    first := nofun
    midway := fun _ => h.midway (.inl hs)
    countdown := fun _ => ⟨rfl, hleft⟩
    separation := ⟨st, rfl⟩ }

theorem inv_timeout : Inv s.timeout :=
  inv_raiseError h (by cases s.granted <;> cases s.waitSeen <;> rfl)

theorem inv_overflow : Inv s.overflow :=
  inv_raiseError h (by cases s.granted <;> rfl)

theorem inv_rxEffect {t : State} (hs : s.state = .awaitingFlowControl) (heffect : RxEffect s t) : Inv t := by
  obtain rfl | rfl | rfl | ⟨bs, st, rfl⟩ := heffect
  · rwa [discard_eq hs]
  · exact inv_waitMore h hs
  · exact inv_overflow h
  · exact inv_grant h hs bs st

/-- Each move of the block keeps the invariant (rule R45). -/
theorem inv_blockMove {t : State} (hmove : BlockMove s t) : Inv t := by
  cases hmove with
  | waits ht => exact ht ▸ inv_wait h
  | single d a rest hs hd ha ht => exact ht ▸ inv_afterSf (inv_sentLogged h (builtSf_length hd) a _)
  | first d a rest hs hd ha ht =>
    exact ht ▸ inv_afterFf (inv_sentLogged h (builtFf_length hd) a _) (by rw [sentLogged_eq]; exact hs)
  | consecutive d a rest hs hd hp ha ht =>
    exact ht ▸ inv_afterCf (inv_sentLogged h (builtCf_length hd) a _) (by rw [sentLogged_eq]; exact hs)
  | timesOut hs ht => exact ht ▸ inv_timeout (inv_recvAnswered h none)
  | receives d rest hs hq hw ht => exact inv_rxEffect (inv_delivered h hq) hs ht

end

/-- Settles O33: a START is refused, raises its error or creates the session; a reset and every move of the block have
their own lemma; and the inputs of the step keep the invariant before either. -/
theorem stepKeepsInvariant : Obligations.StepKeepsInvariant := by
  unfold Obligations.StepKeepsInvariant
  intro s t h hstep
  obtain ⟨cmd, -, hstart⟩ | ⟨-, rfl⟩ | ⟨-, hmove⟩ := step_next hstep
  · obtain ⟨-, hmin, ⟨-, rfl⟩ | ⟨hmax, rfl⟩⟩ := start_next hstart
    · exact inv_raiseError h.afterInput rfl
    · exact inv_createSession h.afterInput hmin hmax
  · exact inv_powerOn h.afterInput
  · exact inv_blockMove h.afterInput hmove

/-- A good state's block always has a move (rule R167). -/
theorem blockStep_total {s : State} (h : Inv s) (rn : Bool) : ∃ t, blockStep rn s = .next t := by
  cases hs : s.state with
  | idle | done | error k =>
    exact ⟨_, blockStep_of_waits (fetch_of_not_busy (busy_of_state hs))⟩
  | sendingSingleFrame =>
    obtain ⟨p, -, -, hheld, hsent⟩ := blockStep_sf h hs rn
    cases ha : s.sendAnswers with
    | nil => exact ⟨_, hheld ha⟩
    | cons a rest => exact ⟨_, hsent a rest ha⟩
  | sendingFirstFrame =>
    obtain ⟨c, -, -, hheld, hsent⟩ := blockStep_ff h hs rn
    cases ha : s.sendAnswers with
    | nil => exact ⟨_, hheld ha⟩
    | cons a rest => exact ⟨_, hsent a rest ha⟩
  | sendingConsecutiveFrames =>
    obtain ⟨c, -, -, hheld, hsent⟩ := blockStep_cf h hs rn
    cases ha : s.sendAnswers with
    | nil => exact ⟨_, hheld (.inr ha)⟩
    | cons a rest =>
      cases hp : s.pacingReady with
      | false => exact ⟨_, hheld (.inl hp)⟩
      | true => exact ⟨_, hsent a rest hp ha⟩
  | awaitingFlowControl =>
    obtain ⟨-, -, hrun⟩ | hrun | ⟨-, -, t, -, hrun, -⟩ := blockStep_await h hs rn
    · exact ⟨_, hrun⟩
    · exact ⟨_, hrun⟩
    · exact ⟨t, hrun⟩

/-- Settles O34: a legal START is answered, a reset always, and else the block has a move. -/
theorem goodStatesNeverStop : Obligations.GoodStatesNeverStop := by
  unfold Obligations.GoodStatesNeverStop
  intro s h hlegal
  cases hhost : s.nextInput.host with
  | none =>
    obtain ⟨t, ht⟩ := blockStep_total h.afterInput s.nextInput.recvNone
    exact ⟨t, (step_of_quiet hhost).trans ht⟩
  | some e =>
    cases e with
    | reset => exact ⟨_, step_of_reset hhost⟩
    | start cmd =>
      obtain ⟨hidle, hmin⟩ := hlegal cmd hhost
      rw [step_of_start hhost]
      by_cases hmax : cmd.payload.length ≤ 4095
      · exact ⟨_, start_of_legal hidle hmin hmax⟩
      · exact ⟨_, start_of_overlong hidle (not_le.mp hmax)⟩

end Sys2Proof.Proofs.Invariant
end

section
/-! PROOFS. What every step of the machine keeps: the session's parameters, the edges of rule R140, and the discipline
of the bus and the clock. -/

namespace Sys2Proof.Proofs.Steps
open Sys2Proof.Machine Sys2Proof.Laws Sys2Proof.Proofs.Encoding Sys2Proof.Proofs.Transmission
open Sys2Proof.Proofs.OneStep Sys2Proof.Proofs.Emission Sys2Proof.Proofs.Invariant

/-! ## Moves of the block -/

/-- What no move of the block writes (rules R21, R34, R54, R68); nor does it consume the host's inputs. -/
structure KeptByBlock (s t : State) : Prop where
  payload : t.payload = s.payload
  totalLen : t.totalLen = s.totalLen
  len : t.len = s.len
  txId : t.txId = s.txId
  fcId : t.fcId = s.fcId
  verbose : t.verbose = s.verbose
  nBs : t.nBs = s.nBs
  sendTimeout : t.sendTimeout = s.sendTimeout
  inputs : t.inputs = s.inputs
  recurring : t.recurring = s.recurring

theorem kept_sentLogged (s : State) (d : List Byte) (a : SendAnswer) (e : LogEvent) :
    KeptByBlock s (s.sentLogged d a e) := by
  rw [sentLogged_eq]; constructor <;> rfl

theorem kept_afterCf (s : State) : KeptByBlock s s.afterCf := by
  rw [afterCf_eq]; constructor <;> rfl

theorem KeptByBlock.trans {s t u : State} (h : KeptByBlock s t) (h' : KeptByBlock t u) : KeptByBlock s u where
  payload := h'.payload.trans h.payload
  totalLen := h'.totalLen.trans h.totalLen
  len := h'.len.trans h.len
  txId := h'.txId.trans h.txId
  fcId := h'.fcId.trans h.fcId
  verbose := h'.verbose.trans h.verbose
  nBs := h'.nBs.trans h.nBs
  sendTimeout := h'.sendTimeout.trans h.sendTimeout
  inputs := h'.inputs.trans h.inputs
  recurring := h'.recurring.trans h.recurring

theorem kept_of_blockMove {s t : State} (h : BlockMove s t) : KeptByBlock s t := by
  cases h with
  | waits ht => subst ht; constructor <;> rfl
  | single d a rest hs hd ha ht => subst ht; exact (kept_sentLogged ..).trans (by constructor <;> rfl)
  | first d a rest hs hd ha ht => subst ht; exact (kept_sentLogged ..).trans (by constructor <;> rfl)
  | consecutive d a rest hs hd hp ha ht => subst ht; exact (kept_sentLogged ..).trans (kept_afterCf _)
  | timesOut hs ht => subst ht; constructor <;> rfl
  | receives d rest hs hq hw ht =>
    have hkeep := kept_of_rxEffect ht
    exact ⟨hkeep.payload, hkeep.totalLen, hkeep.len, hkeep.txId, hkeep.fcId, hkeep.verbose, hkeep.nBs,
      hkeep.sendTimeout, hkeep.inputs, hkeep.recurring⟩

/-- A quiet step is a move from the state its inputs give. -/
theorem blockMove_of_quiet {s t : State} (hquiet : hostQuiet s) (h : step s = .next t) : BlockMove s.afterInput t :=
  blockStep_next ((step_of_quiet hquiet).symm.trans h)

/-- Settles O36: no move of the block writes them. -/
theorem sessionParametersAreFixed : Obligations.SessionParametersAreFixed := by
  unfold Obligations.SessionParametersAreFixed
  intro s t hquiet h
  have hkeep := kept_of_blockMove (blockMove_of_quiet hquiet h)
  exact ⟨fun a => by rw [hkeep.payload]; rfl, hkeep.totalLen, hkeep.len, hkeep.txId, hkeep.fcId, hkeep.verbose,
    hkeep.nBs, hkeep.sendTimeout⟩

/-! ## Edges -/

theorem afterCf_edge (s : State) :
    s.afterCf.state = .done ∨ s.afterCf.state = .awaitingFlowControl ∨
      s.afterCf.state = .sendingConsecutiveFrames := by
  obtain ⟨-, ht⟩ | ⟨-, -, -, ht⟩ | ⟨-, -, ht⟩ := afterCf_cases s
  · exact .inl (by rw [ht]; rfl)
  · exact .inr (.inl (by rw [ht]; rfl))
  · exact .inr (.inr (by rw [ht]))

/-- Each move takes its edge of rule R140. -/
theorem blockEdge_of_blockMove {s t : State} (h : BlockMove s t) : blockEdge s.state t.state = true := by
  cases h with
  | waits ht => simp [ht, blockEdge]
  | single d a rest hs hd ha ht => rw [hs, ht]; rfl
  | first d a rest hs hd ha ht => rw [hs, ht]; rfl
  | consecutive d a rest hs hd hp ha ht =>
    rw [hs, ht]
    obtain he | he | he := afterCf_edge (s.sentLogged d a (.sendFailedCf s.seq)) <;> rw [he] <;> rfl
  | timesOut hs ht => rw [hs, ht]; rfl
  | receives d rest hs hq hw ht => rw [hs]; obtain rfl | rfl | rfl | ⟨bs, st, rfl⟩ := ht <;> rfl

/-- No edge of the block leads to `Idle` (rule R140). -/
theorem eq_idle_of_blockEdge {m : MState} (h : blockEdge m .idle = true) : m = .idle := by
  cases m with
  | idle => rfl
  | sendingSingleFrame | sendingFirstFrame | awaitingFlowControl | sendingConsecutiveFrames | done | error k => cases h

/-- Settles O35: the host's events lead where their own lemmas say, and each move of the block takes its edge. -/
theorem noOtherEdge : Obligations.NoOtherEdge := by
  unfold Obligations.NoOtherEdge
  intro s t h
  obtain ⟨cmd, hhost, hstart⟩ | ⟨hhost, rfl⟩ | ⟨hhost, hmove⟩ := step_next h
  · simp only [hostQuiet, hhost, reduceCtorEq, false_implies, true_and, Option.some.injEq, HostEvent.start.injEq,
      and_true]
    rintro _ rfl
    obtain ⟨hidle, hmin, ⟨hlong, rfl⟩ | ⟨hmax, rfl⟩⟩ := start_next hstart
    · exact ⟨hidle, .inl ⟨hlong, rfl⟩⟩
    · refine ⟨hidle, .inr ?_⟩
      by_cases h7 : cmd.payload.length ≤ 7
      · exact .inl ⟨hmin, h7, if_pos h7⟩
      · exact .inr ⟨not_le.mp h7, hmax, if_neg h7⟩
  · simp [hostQuiet, hhost, State.reset]
  · simp only [hhost, reduceCtorEq, false_implies, implies_true, and_true]
    exact fun _ => (blockEdge_of_blockMove hmove : blockEdge s.afterInput.state t.state = true)

/-! ## The bus and the clock -/

/-- The call a move makes on the bus, if it makes one (rules R65, R66). -/
theorem bus_of_blockMove {s t : State} (h : BlockMove s t) :
    t.bus = s.bus ∨
    (∃ d r, t.bus = s.bus ++ [.send s.now s.txId d r] ∧ d.length = 8 ∧
      (s.state = .sendingSingleFrame ∨ s.state = .sendingFirstFrame ∨ s.state = .sendingConsecutiveFrames)) ∨
    (∃ a, t.bus = s.bus ++ [.recv s.now s.fcId (s.fcDeadline - s.now) a] ∧ s.state = .awaitingFlowControl) := by
  cases h with
  | waits ht => exact .inl (by rw [ht]; rfl)
  | single d a rest hs hd ha ht =>
    exact .inr (.inl ⟨d, a.result, by rw [ht, sentLogged_eq]; rfl, builtSf_length hd, .inl hs⟩)
  | first d a rest hs hd ha ht =>
    exact .inr (.inl ⟨d, a.result, by rw [ht, sentLogged_eq]; rfl, builtFf_length hd, .inr (.inl hs)⟩)
  | consecutive d a rest hs hd hp ha ht =>
    exact .inr (.inl ⟨d, a.result, by rw [ht, sentLogged_eq, afterCf_eq], builtCf_length hd, .inr (.inr hs)⟩)
  | timesOut hs ht => exact .inr (.inr ⟨none, by rw [ht]; rfl, hs⟩)
  | receives d rest hs hq hw ht => exact .inr (.inr ⟨some d, (kept_of_rxEffect ht).bus, hs⟩)

/-- Settles O37: the host's events make no call, and a move at most one. -/
theorem busDiscipline : Obligations.BusDiscipline := by
  unfold Obligations.BusDiscipline
  intro s t h
  obtain ⟨cmd, -, hstart⟩ | ⟨-, rfl⟩ | ⟨-, hmove⟩ := step_next h
  · obtain ⟨-, -, ⟨-, rfl⟩ | ⟨-, rfl⟩⟩ := start_next hstart
    · exact .inl rfl
    · exact .inl rfl
  · exact .inl rfl
  · exact bus_of_blockMove hmove

theorem now_le_of_blockMove {s t : State} (h : BlockMove s t) : s.now ≤ t.now := by
  cases h with
  | waits ht => simp [ht]
  | single d a rest hs hd ha ht => rw [ht, sentLogged_eq]; exact Nat.le_add_right _ _
  | first d a rest hs hd ha ht => rw [ht, sentLogged_eq]; exact Nat.le_add_right _ _
  | consecutive d a rest hs hd hp ha ht => rw [ht, sentLogged_eq, afterCf_eq]; exact Nat.le_add_right _ _
  | timesOut hs ht => rw [ht]; exact le_rfl
  | receives d rest hs hq hw ht => exact (kept_of_rxEffect ht).now.ge

/-- Settles O38: the input moves the clock on first, the host's events leave it, and no move sets it back. -/
theorem clockNeverGoesBack : Obligations.ClockNeverGoesBack := by
  unfold Obligations.ClockNeverGoesBack
  intro s t h
  refine le_trans (Nat.le_add_right s.now s.nextInput.elapsed : s.now ≤ s.afterInput.now) ?_
  obtain ⟨cmd, -, hstart⟩ | ⟨-, rfl⟩ | ⟨-, hmove⟩ := step_next h
  · obtain ⟨-, -, ⟨-, rfl⟩ | ⟨-, rfl⟩⟩ := start_next hstart
    · exact le_rfl
    · exact le_rfl
  · exact le_rfl
  · exact now_le_of_blockMove hmove

/-- Settles O39: the only move of SendingConsecutiveFrames that makes a call is `stepCF`, its guard true. -/
theorem pacingGapIsHonoured : Obligations.PacingGapIsHonoured := by
  unfold Obligations.PacingGapIsHonoured
  intro s t hquiet hs h hbus
  cases blockMove_of_quiet hquiet h with
  | waits ht => exact absurd (by rw [ht]; rfl) hbus
  | consecutive d a rest _ hd hp ha ht =>
    refine ⟨s.afterInput.now, d, a.result, ?_, (pacingReady_iff _).mp hp, ?_, ?_⟩ <;>
      rw [ht, sentLogged_eq, afterCf_eq]
    · rfl
    · exact Nat.le_add_right _ _
  | single _ _ _ hs' => exact absurd (hs.symm.trans hs') (by simp)
  | first _ _ _ hs' => exact absurd (hs.symm.trans hs') (by simp)
  | timesOut hs' => exact absurd (hs.symm.trans hs') (by simp)
  | receives _ _ hs' => exact absurd (hs.symm.trans hs') (by simp)

end Sys2Proof.Proofs.Steps
end

section
/-! PROOFS. The frames of a transfer go out in order (rules R55, R63, R160). -/

namespace Sys2Proof.Proofs.Order
open Sys2Proof.Machine Sys2Proof.Proofs.Transmission Sys2Proof.Proofs.OneStep Sys2Proof.Proofs.Emission
open Sys2Proof.Proofs.Steps Sys2Proof.Proofs.Encoding

/-! ## The record of the sends -/

theorem sendsOf_append (es fs : List BusEvent) : sendsOf (es ++ fs) = sendsOf es ++ sendsOf fs := by
  induction es with
  | nil => rfl
  | cons e es ih =>
    cases e with
    | send i id d r => exact congrArg (d :: ·) ih
    | recv i id timeout a => exact ih

/-- What is read from a snapshot is that part of the payload (rule R68). -/
theorem eq_of_memRead_snapshot {s : State} {p c : List Byte} {addr n : Nat} (hp : s.payload = Memory.ofBytes p)
    (h : s.memRead addr n = .ok c) : c = (p.drop addr).take n := by
  obtain ⟨-, -, hlen, hread⟩ := memRead_ok_iff.mp h
  apply List.ext_getElem?
  intro k
  by_cases hk : k < n
  · rw [← hread k hk, hp, read_ofBytes, List.getElem?_take_of_lt hk, List.getElem?_drop]
  · rw [List.getElem?_eq_none (by omega), List.getElem?_eq_none (by simp; omega)]

/-! ## The frames due -/

theorem emittedCount_single {len : Nat} (hmin : 1 ≤ len) (hmax : len ≤ 7) : emittedCount len len = 1 := by
  rw [emittedCount, if_neg (by omega), if_pos hmax]

/-- Between the First Frame and the end: the First Frame and each started chunk of seven bytes (rules R22, R160). -/
theorem emittedCount_midway {len consumed : Nat} (hlen : 8 ≤ len) (h6 : 6 ≤ consumed) :
    emittedCount len consumed = 1 + consumed / 7 := by
  rw [emittedCount, if_neg (by omega), if_neg (by omega)]
  omega

theorem framesOf_single {p : List Byte} (h : p.length ≤ 7) : framesOf p = [encode (.sf p)] := by
  rw [framesOf, if_pos h, encode_sf_eq h]
  simp [pad8]

theorem framesOf_first {p : List Byte} {l : BitVec 12} (hl : l.toNat = p.length) (h : 8 ≤ p.length) :
    (framesOf p)[0]? = some (encode (.ff l (p.take 6))) := by
  rw [framesOf, if_neg (by omega), encode_ff_eq, hl]
  rfl

/-- The k-th Consecutive Frame carries the chunk at `6 + 7k` under its number (rules R55, R160). -/
theorem framesOf_consecutive {p : List Byte} {k : Nat} {sn : Nibble} (h : 6 + 7 * k < p.length) (h8 : 8 ≤ p.length)
    (hsn : sn.toNat = (1 + k) % 16) :
    (framesOf p)[1 + k]? = some (encode (.cf sn (cfData ((p.drop (6 + 7 * k)).take 7)))) := by
  have hk : k < cfCount p.length := by rw [cfCount]; omega
  rw [framesOf, if_neg (by omega), Nat.add_comm 1 k, List.getElem?_cons_succ, List.getElem?_map,
    List.getElem?_range hk, Option.map_some, nthCf, encode_cf_eq, hsn, Nat.add_comm 1 k]
  simp [pad8]

theorem length_framesOf {p : List Byte} (h : 8 ≤ p.length) :
    (framesOf p).length = emittedCount p.length p.length := by
  rw [framesOf, if_neg (by omega), emittedCount_midway h (by omega)]
  simp [cfCount]
  omega

/-! ## The frames sent so far -/

/-- A move that sends nothing and consumes nothing keeps the relation. -/
theorem sentPrefix_of_unsent {base : List (List Byte)} {p : List Byte} {s t : State} (h : SentPrefix base p s)
    (hkeep : KeptByBlock s t) (hconsumed : t.consumed = s.consumed) (hbus : sendsOf t.bus = sendsOf s.bus) :
    SentPrefix base p t := by
  obtain ⟨hp, hl, hs⟩ := h
  exact ⟨hkeep.payload.trans hp, by rw [hkeep.totalLen, hl], by rw [hbus, hs, hconsumed]⟩

/-- A move that sends the next frame due, and counts it, keeps the relation with one frame more. -/
theorem sentPrefix_of_sent {base : List (List Byte)} {p d : List Byte} {s t : State} {id : Ident} {instant : Nat}
    {r : SendResult} (h : SentPrefix base p s) (hkeep : KeptByBlock s t)
    (hbus : t.bus = s.bus ++ [.send instant id d r])
    (hcount : emittedCount p.length t.consumed.toNat = emittedCount p.length s.consumed.toNat + 1)
    (hframe : (framesOf p)[emittedCount p.length s.consumed.toNat]? = some d) : SentPrefix base p t := by
  obtain ⟨hp, hl, hs⟩ := h
  refine ⟨hkeep.payload.trans hp, by rw [hkeep.totalLen, hl], ?_⟩
  rw [hbus, sendsOf_append, hs, hcount, List.take_add_one, hframe, List.append_assoc]
  rfl

/-- Each move keeps the relation: the frame a sending state builds is the next one due. -/
theorem sentPrefix_of_blockMove {base : List (List Byte)} {p : List Byte} {s t : State} (hinv : Inv s)
    (h : SentPrefix base p s) (hmove : BlockMove s t) : SentPrefix base p t := by
  have hkeep := kept_of_blockMove hmove
  obtain ⟨hp, hl, -⟩ := id h
  cases hmove with
  | waits ht => exact sentPrefix_of_unsent h hkeep (by rw [ht]; rfl) (by rw [ht]; rfl)
  | timesOut hs ht =>
    refine sentPrefix_of_unsent h hkeep (by rw [ht]; rfl) ?_
    rw [ht, timeout_bus, recvAnswered_bus, sendsOf_append]
    exact List.append_nil _
  | receives d rest hs hq hw ht =>
    have hk := kept_of_rxEffect ht
    refine sentPrefix_of_unsent h hkeep hk.consumed ?_
    rw [hk.bus, recvAnswered_bus, sendsOf_append]
    exact List.append_nil _
  | single d a rest hs hd ha ht =>
    obtain ⟨h7, hzero⟩ := hinv.single hs
    obtain ⟨hlen, hmin⟩ := hinv.busy_len (busy_of_state hs)
    obtain ⟨q, hb, -, hm⟩ := builtSf_of_inv hinv hs
    obtain rfl : q = p := by
      rw [eq_of_memRead_snapshot hp hm, hl, List.drop_zero, List.take_length]
    obtain rfl := Except.ok.inj (hd.symm.trans hb)
    have hconsumed : t.consumed = s.totalLen := by rw [ht, sentLogged_eq]; rfl
    refine sentPrefix_of_sent h hkeep (by rw [ht, sentLogged_eq]; rfl) ?_ ?_
    · rw [hconsumed, hl, hzero, emittedCount_single (by omega) (by omega)]; rfl
    · rw [hzero, framesOf_single (by omega)]; rfl
  | first d a rest hs hd ha ht =>
    obtain ⟨h8, hzero, -⟩ := hinv.first hs
    obtain ⟨hlen, -⟩ := hinv.busy_len (busy_of_state hs)
    obtain ⟨c, hb, -, hm⟩ := builtFf_of_inv hinv hs
    obtain rfl : c = p.take 6 := eq_of_memRead_snapshot hp hm
    obtain rfl := Except.ok.inj (hd.symm.trans hb)
    have hconsumed : t.consumed = 6#12 := by rw [ht, sentLogged_eq]; rfl
    refine sentPrefix_of_sent h hkeep (by rw [ht, sentLogged_eq]; rfl) ?_ ?_
    · rw [hconsumed, hzero, emittedCount_midway (by omega) (by decide)]; rfl
    · rw [hzero]; exact framesOf_first hl (by omega)
  | consecutive d a rest hs hd hready ha ht =>
    obtain ⟨h8, hlt, k, hk, hseq⟩ := hinv.midway (.inr hs)
    obtain ⟨c, -, hb, -, hm⟩ := builtCf_of_inv hinv hs
    obtain rfl := Except.ok.inj (hd.symm.trans hb)
    have hchunk : s.chunkLen = min 7 (p.length - s.consumed.toNat) := by rw [← hl]; rfl
    have hc : c = (p.drop (6 + 7 * k)).take 7 := by
      rw [eq_of_memRead_snapshot hp hm, hchunk, hk, ← List.length_drop, ← List.take_eq_take_min]
    have hconsumed : t.consumed.toNat = s.consumed.toNat + s.chunkLen := by
      rw [← toNat_add_chunkLen hlt.le, ht, sentLogged_eq, afterCf_eq]; rfl
    refine sentPrefix_of_sent h hkeep (by rw [ht, sentLogged_eq, afterCf_eq]) ?_ ?_
    · rw [emittedCount_midway (by omega) (by omega), emittedCount_midway (by omega) (by omega)]
      omega
    · rw [emittedCount_midway (by omega) (by omega), hk, show (6 + 7 * k) / 7 = k by omega, hc]
      exact framesOf_consecutive (by omega) (by omega) hseq

/-- Settles O40: a quiet step is a move, and the inputs before it touch neither the session nor the record. -/
theorem framesGoOutInOrder : Obligations.FramesGoOutInOrder := by
  unfold Obligations.FramesGoOutInOrder
  intro base p s t hinv h hquiet hstep
  exact sentPrefix_of_blockMove hinv.afterInput h (blockMove_of_quiet hquiet hstep)

/-- Settles O41: START takes the snapshot and has consumed nothing. -/
theorem startBeginsTheFrameSequence : Obligations.StartBeginsTheFrameSequence := by
  unfold Obligations.StartBeginsTheFrameSequence
  intro s cmd hhost hidle hmin hmax
  refine ⟨_, (step_of_start hhost).trans (start_of_legal hidle hmin hmax), rfl, ofNat12_toNat_of_le hmax, ?_⟩
  exact (List.append_nil _).symm

end Sys2Proof.Proofs.Order
end

section
/-! PROOFS. Which registers a step reads: two states that agree on what it reads take steps that agree again. -/

namespace Sys2Proof.Proofs.Noninterference
open Sys2Proof.Machine Sys2Proof.Proofs.Transmission Sys2Proof.Proofs.OneStep Sys2Proof.Proofs.Emission
open Sys2Proof.Proofs.Steps

/-- Whatever the one result's next state is, the other has a related one. -/
def Matches (R : State → State → Prop) (r r' : Result) : Prop := ∀ t, r = .next t → ∃ t', r' = .next t' ∧ R t t'

theorem matches_next {R : State → State → Prop} {t t' : State} (h : R t t') : Matches R (.next t) (.next t') := by
  rintro _ ⟨⟩
  exact ⟨t', rfl, h⟩

theorem matches_of_stopped {R : State → State → Prop} (e : Stop) (r : Result) : Matches R e.result r := by
  intro t ht
  cases e <;> cases ht

/-- A relation between states that no step can break: related states agree on all that a step reads in their
`S.state`, and each operation keeps them related. -/
structure Unobserved (R : State → State → Prop) : Prop where
  state {s s'} : R s s' → s.state = s'.state
  nextInput {s s'} : R s s' → s.nextInput = s'.nextInput
  sendAnswers {s s'} : R s s' → s.sendAnswers = s'.sendAnswers
  /-- What the frames are built from. -/
  built {s s'} : R s s' → s.busy = true →
    s.builtSf = s'.builtSf ∧ s.builtFf = s'.builtFf ∧ s.builtCf = s'.builtCf ∧ s.seq = s'.seq
  /-- What the pacing guard is made of. -/
  pacing {s s'} : R s s' → s.state = .sendingConsecutiveFrames →
    s.tLast + s.sepUs.toNat = s'.tLast + s'.sepUs.toNat ∧ s.now = s'.now
  /-- What the wait window and the codes of its errors are made of. -/
  window {s s'} : R s s' → s.state = .awaitingFlowControl →
    s.rxQueue = s'.rxQueue ∧ s.now = s'.now ∧ s.fcDeadline = s'.fcDeadline ∧ s.granted = s'.granted ∧
      s.waitSeen = s'.waitSeen
  afterInput {s s'} : R s s' → R s.afterInput s'.afterInput
  powerOn {s s'} : R s s' → R s.powerOn s'.powerOn
  raiseError {s s'} (k : ErrorKind) (st : Status) : R s s' → R (s.raiseError k st) (s'.raiseError k st)
  createSession {s s'} (cmd : StartCommand) : R s s' → R (s.createSession cmd) (s'.createSession cmd)
  wait {s s'} : R s s' → R s.wait s'.wait
  sentSf {s s'} (d : List Byte) (a : SendAnswer) (e : LogEvent) : R s s' → s.state = .sendingSingleFrame →
    R (s.sentLogged d a e).afterSf (s'.sentLogged d a e).afterSf
  sentFf {s s'} (d : List Byte) (a : SendAnswer) (e : LogEvent) : R s s' → s.state = .sendingFirstFrame →
    R (s.sentLogged d a e).afterFf (s'.sentLogged d a e).afterFf
  sentCf {s s'} (d : List Byte) (a : SendAnswer) (e : LogEvent) : R s s' → s.state = .sendingConsecutiveFrames →
    R (s.sentLogged d a e).afterCf (s'.sentLogged d a e).afterCf
  recvAnswered {s s'} (a : Option (List Byte)) : R s s' → s.state = .awaitingFlowControl →
    R (s.recvAnswered a) (s'.recvAnswered a)
  delivered {s s'} (d : List Byte) (rest : List (List Byte)) : R s s' → s.state = .awaitingFlowControl →
    R (delivered s d rest) (delivered s' d rest)
  waitMore {s s'} : R s s' → s.state = .awaitingFlowControl → R s.waitMore s'.waitMore
  grant {s s'} (lim : BlockLimit) (sep : BitVec 17) : R s s' → s.state = .awaitingFlowControl →
    R (s.grant lim sep) (s'.grant lim sep)

section
variable {R : State → State → Prop} (hR : Unobserved R) {s s' : State} (h : R s s')
include hR h

theorem state_of_related {m : MState} (hs : s.state = m) : s'.state = m :=
  (hR.state h).symm.trans hs

theorem matches_emit (d : List Byte) (e : LogEvent) {after : State → State}
    (hafter : ∀ a, R (after (s.sentLogged d a e)) (after (s'.sentLogged d a e))) :
    Matches R (s.emit d e after) (s'.emit d e after) := by
  cases ha : s.sendAnswers with
  | nil =>
    rw [emit_of_unanswered ha, emit_of_unanswered ((hR.sendAnswers h).symm.trans ha)]
    exact matches_next (hR.wait h)
  | cons a rest =>
    rw [emit_of_answer ha, emit_of_answer ((hR.sendAnswers h).symm.trans ha)]
    exact matches_next (hafter a)

theorem matches_whenAwaiting {t t' : State} (ht : s.state = .awaitingFlowControl → R t t') :
    Matches R (s.whenAwaiting t) (s'.whenAwaiting t') := by
  intro u hu
  obtain ⟨hs, rfl⟩ := whenAwaiting_next hu
  exact ⟨t', whenAwaiting_of_awaiting (state_of_related hR h hs) t', ht hs⟩

theorem related_timeout (hs : s.state = .awaitingFlowControl) : R s.timeout s'.timeout := by
  obtain ⟨-, -, -, hg, hw⟩ := hR.window h hs
  rw [State.timeout, State.timeout, ← hg, ← hw]
  exact hR.raiseError _ _ h

theorem related_overflow (hs : s.state = .awaitingFlowControl) : R s.overflow s'.overflow := by
  obtain ⟨-, -, -, hg, -⟩ := hR.window h hs
  rw [State.overflow, State.overflow, ← hg]
  exact hR.raiseError _ _ h

/-- Related states run an instruction to related states. -/
theorem matches_exec (i : Instr) : Matches R (exec i s) (exec i s') := by
  intro t ht
  cases i with
  | sf p =>
    obtain ⟨hs, hb, -⟩ := execSf_next ht
    obtain ⟨hbuilt, -⟩ := hR.built h (busy_of_state hs)
    rw [exec_sf_of_built hs hb] at ht
    rw [exec_sf_of_built (state_of_related hR h hs) (hbuilt.symm.trans hb)]
    exact matches_emit hR h _ _ (fun a => hR.sentSf _ a _ h hs) t ht
  | ff l c =>
    obtain ⟨hs, hb, -⟩ := execFf_next ht
    obtain ⟨-, hbuilt, -⟩ := hR.built h (busy_of_state hs)
    rw [exec_ff_of_built hs hb] at ht
    rw [exec_ff_of_built (state_of_related hR h hs) (hbuilt.symm.trans hb)]
    exact matches_emit hR h _ _ (fun a => hR.sentFf _ a _ h hs) t ht
  | cf sn data =>
    obtain ⟨hs, hb, -⟩ := execCf_next ht
    obtain ⟨-, -, hbuilt, hseq⟩ := hR.built h (busy_of_state hs)
    obtain ⟨hgap, hnow⟩ := hR.pacing h hs
    have hs' := state_of_related hR h hs
    have hb' := hbuilt.symm.trans hb
    by_cases hready : s.tLast + s.sepUs.toNat ≤ s.now
    · rw [exec_cf_of_ready hs hb hready] at ht
      rw [exec_cf_of_ready hs' hb' (by rwa [← hgap, ← hnow]), ← hseq]
      exact matches_emit hR h _ _ (fun a => hR.sentCf _ a _ h hs) t ht
    · rw [exec_cf_of_early hs hb (not_le.mp hready)] at ht
      rw [exec_cf_of_early hs' hb' (by rw [← hgap, ← hnow]; exact not_le.mp hready)]
      exact matches_next (hR.wait h) t ht
  | fcCts bs st rest => exact matches_whenAwaiting hR h (hR.grant _ _ h) t ht
  | fcWait bs st rest => exact matches_whenAwaiting hR h (hR.waitMore h) t ht
  | fcOvfl bs st rest => exact matches_whenAwaiting hR h (related_overflow hR h) t ht
  | fcUnknown3 | fcUnknown4to7 | fcUnknown8to15 | rxType0to1 | rxType2 | rxType4to7 | rxType8to15 | rxShort =>
    refine matches_whenAwaiting hR h (fun hs => ?_) t ht
    rwa [discard_eq hs, discard_eq (state_of_related hR h hs)]

theorem matches_runFrame (dir : Direction) (d : List Byte) : Matches R (runFrame dir d s) (runFrame dir d s') := by
  unfold runFrame
  cases decode dir d with
  | error why => exact matches_of_stopped (.refusal (.undecodable why)) _
  | ok i => exact matches_exec hR h i

/-- In a sending state the same frame is built, or neither is. -/
theorem matches_of_fetchBuilt {rn : Bool} {b : Except Stop (List Byte)} (hf : fetch rn s = fetchBuilt b s)
    (hf' : fetch rn s' = fetchBuilt b s') : Matches R (blockStep rn s) (blockStep rn s') := by
  unfold blockStep
  rw [hf, hf']
  cases b with
  | error e => exact matches_of_stopped e _
  | ok d => exact matches_runFrame hR h .tx d

/-- In AwaitingFlowControl `BusRecv` gives both the same answer. -/
theorem matches_await (rn : Bool) (hs : s.state = .awaitingFlowControl) :
    Matches R (blockStep rn s) (blockStep rn s') := by
  obtain ⟨hq, hnow, hdeadline, -⟩ := hR.window h hs
  have hs' := state_of_related hR h hs
  obtain ⟨-, hempty, rfl, hw⟩ | ⟨-, hnone⟩ | ⟨d, rest, hcons, rfl, hw, -⟩ := busRecv_cases s rn
  · rw [blockStep_of_waits (fetch_pending hs hempty hw),
      blockStep_of_waits (fetch_pending hs' (hq ▸ hempty) (hnow ▸ hdeadline ▸ hw))]
    exact matches_next (hR.wait h)
  · have hnone : rn = true ∨ s.fcDeadline < s.now ∨ (s.rxQueue = [] ∧ s.fcDeadline ≤ s.now) :=
      hnone.imp_right (Or.imp_right (And.imp_right le_of_eq))
    rw [blockStep_of_timedOut (fetch_timedOut hs hnone),
      blockStep_of_timedOut (fetch_timedOut hs' (by rwa [← hq, ← hnow, ← hdeadline]))]
    exact matches_next (related_timeout hR (hR.recvAnswered none h hs) hs)
  · have hf := fetch_delivered hs hcons hw
    have hf' := fetch_delivered hs' (hq ▸ hcons) (by rwa [← hnow, ← hdeadline])
    simp only [blockStep, hf, hf']
    exact matches_runFrame hR (hR.delivered d rest h hs) .rx d

theorem matches_blockStep (rn : Bool) : Matches R (blockStep rn s) (blockStep rn s') := by
  cases hs : s.state with
  | idle | done | error k =>
    rw [blockStep_of_waits (fetch_of_not_busy (busy_of_state hs)),
      blockStep_of_waits (fetch_of_not_busy (busy_of_state (state_of_related hR h hs)))]
    exact matches_next (hR.wait h)
  | sendingSingleFrame =>
    obtain ⟨hbuilt, -⟩ := hR.built h (busy_of_state hs)
    exact matches_of_fetchBuilt hR h (b := s.builtSf) (by simp only [fetch, hs])
      (by simp only [fetch, state_of_related hR h hs, hbuilt])
  | sendingFirstFrame =>
    obtain ⟨-, hbuilt, -⟩ := hR.built h (busy_of_state hs)
    exact matches_of_fetchBuilt hR h (b := s.builtFf) (by simp only [fetch, hs])
      (by simp only [fetch, state_of_related hR h hs, hbuilt])
  | sendingConsecutiveFrames =>
    obtain ⟨-, -, hbuilt, -⟩ := hR.built h (busy_of_state hs)
    exact matches_of_fetchBuilt hR h (b := s.builtCf) (by simp only [fetch, hs])
      (by simp only [fetch, state_of_related hR h hs, hbuilt])
  | awaitingFlowControl => exact matches_await hR h rn hs

theorem matches_start (cmd : StartCommand) : Matches R (s.start cmd) (s'.start cmd) := by
  intro t ht
  obtain ⟨hidle, hmin, hcase⟩ := start_next ht
  have hidle' : s'.busy = false := (congrArg MState.busy (hR.state h)).symm.trans hidle
  obtain ⟨hlong, rfl⟩ | ⟨hmax, rfl⟩ := hcase
  · exact ⟨_, start_of_overlong hidle' hlong, hR.raiseError _ _ h⟩
  · exact ⟨_, start_of_legal hidle' hmin hmax, hR.createSession cmd h⟩

/-- Related states step to related states. -/
theorem matches_step : Matches R (step s) (step s') := by
  have hin := hR.nextInput h
  have h' := hR.afterInput h
  cases hhost : s.nextInput.host with
  | none =>
    rw [step_of_quiet hhost, step_of_quiet (hin ▸ hhost : s'.nextInput.host = none), ← hin]
    exact matches_blockStep hR h' _
  | some e =>
    cases e with
    | start cmd =>
      rw [step_of_start hhost, step_of_start (hin ▸ hhost)]
      exact matches_start hR h' cmd
    | reset =>
      rw [step_of_reset hhost, step_of_reset (hin ▸ hhost)]
      exact matches_next (hR.powerOn h')

end

/-! ## VERBOSE -/

/-- The same state, but for `VERBOSE`. -/
def SameButVerbose (s s' : State) : Prop := ∃ v, s' = { s with verbose := v }

theorem sameButVerbose_unobserved : Unobserved SameButVerbose where
  state := by rintro s _ ⟨v, rfl⟩; rfl
  nextInput := by rintro s _ ⟨v, rfl⟩; rfl
  sendAnswers := by rintro s _ ⟨v, rfl⟩; rfl
  built := by rintro s _ ⟨v, rfl⟩ -; exact ⟨rfl, rfl, rfl, rfl⟩
  pacing := by rintro s _ ⟨v, rfl⟩ -; exact ⟨rfl, rfl⟩
  window := by rintro s _ ⟨v, rfl⟩ -; exact ⟨rfl, rfl, rfl, rfl, rfl⟩
  afterInput := by rintro s _ ⟨v, rfl⟩; exact ⟨v, rfl⟩
  powerOn := by rintro s _ ⟨v, rfl⟩; exact ⟨false, rfl⟩
  raiseError := by rintro s _ k st ⟨v, rfl⟩; exact ⟨v, rfl⟩
  createSession := by rintro s _ cmd ⟨v, rfl⟩; exact ⟨cmd.verbose, rfl⟩
  wait := by rintro s _ ⟨v, rfl⟩; exact ⟨v, rfl⟩
  sentSf := by rintro s _ d a e ⟨v, rfl⟩ -; rw [sentLogged_eq, sentLogged_eq]; exact ⟨v, rfl⟩
  sentFf := by rintro s _ d a e ⟨v, rfl⟩ -; rw [sentLogged_eq, sentLogged_eq]; exact ⟨v, rfl⟩
  sentCf := by
    rintro s _ d a e ⟨v, rfl⟩ -
    rw [sentLogged_eq, sentLogged_eq, afterCf_eq, afterCf_eq]
    exact ⟨v, rfl⟩
  recvAnswered := by rintro s _ a ⟨v, rfl⟩ -; exact ⟨v, rfl⟩
  delivered := by rintro s _ d rest ⟨v, rfl⟩ -; exact ⟨v, rfl⟩
  waitMore := by rintro s _ ⟨v, rfl⟩ -; exact ⟨v, rfl⟩
  grant := by rintro s _ lim sep ⟨v, rfl⟩ -; exact ⟨v, rfl⟩

/-- Settles O48: no operation reads `VERBOSE`, and START writes its own. -/
theorem verboseHasNoEffect : Obligations.VerboseHasNoEffect := by
  unfold Obligations.VerboseHasNoEffect
  intro s t v hstep
  obtain ⟨t', hstep', v', rfl⟩ := matches_step sameButVerbose_unobserved (⟨v, rfl⟩ : SameButVerbose s _) t hstep
  exact ⟨_, hstep', rfl⟩

/-! ## Unspecified registers -/

section
variable {s s' : State} (h : SameLive s s')
include h

theorem sameLive_afterInput : SameLive s.afterInput s'.afterInput := by
  have hin : s.nextInput = s'.nextInput := by rw [State.nextInput, State.nextInput, h.inputs, h.recurring]
  exact { h with
    now := by rw [afterInput_now, afterInput_now, h.now, hin]
    rxQueue := by rw [afterInput_rxQueue, afterInput_rxQueue, h.rxQueue, hin]
    inputs := congrArg List.tail h.inputs
    recurring := by
      simp only [afterInput_recurring, State.nextRecurring, h.inputs, h.recurring] }

/-- In a state that is not busy no session register is in use. -/
theorem sameLive_raiseError (k : ErrorKind) (st : Status) : SameLive (s.raiseError k st) (s'.raiseError k st) :=
  { h with state := rfl, result := rfl, session := nofun, window := nofun, block := nofun, lastSend := nofun }

theorem sameLive_powerOn : SameLive s.powerOn s'.powerOn :=
  { h with
    state := rfl
    result := rfl
    nBs := rfl
    session := nofun
    window := nofun
    block := nofun
    lastSend := nofun }

/-- START writes every register the two sending states have a use for (rule R143). -/
theorem sameLive_createSession (cmd : StartCommand) : SameLive (s.createSession cmd) (s'.createSession cmd) := by
  have hne {m : MState} (hm : (s.createSession cmd).state = m) :
      m = .sendingSingleFrame ∨ m = .sendingFirstFrame := by
    rw [createSession_state] at hm
    split_ifs at hm
    · exact .inl hm.symm
    · exact .inr hm.symm
  exact { h with
    state := rfl
    result := rfl
    session := fun _ => ⟨rfl, rfl, rfl, rfl, rfl, rfl, rfl⟩
    window := fun hs => absurd (hne hs) (by simp)
    block := fun hs => absurd (hne hs) (by simp)
    lastSend := fun hs => absurd (hne hs) (by simp) }

theorem sameLive_wait : SameLive s.wait s'.wait :=
  { h with now := congrArg (· + 1) h.now }

/-! ### Frames -/

theorem memRead_of_sameLive (hb : s.busy = true) (addr n : Nat) : s.memRead addr n = s'.memRead addr n := by
  obtain ⟨htotal, -, -, -, -, -, hpayload⟩ := h.session hb
  rw [State.memRead, State.memRead, htotal, hpayload]

theorem chunkLen_of_sameLive (hb : s.busy = true) : s.chunkLen = s'.chunkLen := by
  obtain ⟨htotal, hconsumed, -⟩ := h.session hb
  rw [State.chunkLen, State.chunkLen, htotal, hconsumed]

theorem built_of_sameLive (hb : s.busy = true) :
    s.builtSf = s'.builtSf ∧ s.builtFf = s'.builtFf ∧ s.builtCf = s'.builtCf ∧ s.seq = s'.seq := by
  obtain ⟨htotal, hconsumed, hseq, -⟩ := h.session hb
  refine ⟨?_, ?_, ?_, hseq⟩
  · rw [State.builtSf, State.builtSf, memRead_of_sameLive h hb, htotal]
  · rw [State.builtFf, State.builtFf, memRead_of_sameLive h hb, htotal]
  · rw [State.builtCf, State.builtCf, memRead_of_sameLive h hb, hconsumed, hseq, chunkLen_of_sameLive h hb]

/-- A send leaves the two related, and its return is the same reading for both. -/
theorem sameLive_sentLogged (hb : s.busy = true) (d : List Byte) (a : SendAnswer) (e : LogEvent) :
    SameLive (s.sentLogged d a e) (s'.sentLogged d a e) ∧
      (s.sentLogged d a e).tLast = (s'.sentLogged d a e).tLast := by
  obtain ⟨-, -, -, -, htx, -⟩ := h.session hb
  have hnow : s.now + a.took = s'.now + a.took := by rw [h.now]
  rw [sentLogged_eq, sentLogged_eq]
  refine ⟨{ h with
    now := hnow
    sendAnswers := congrArg List.tail h.sendAnswers
    bus := by simp only [h.bus, h.now, htx]
    log := by simp only [h.log]
    block := fun hs => ?_
    lastSend := fun _ => hnow }, hnow⟩
  obtain ⟨hsep, -, hu, hr⟩ := h.block hs
  exact ⟨hsep, hnow, hu, hr⟩

theorem sameLive_finish : SameLive s.finish s'.finish :=
  { h with state := rfl, result := rfl, session := nofun, window := nofun, block := nofun, lastSend := nofun }

/-- Entering AwaitingFlowControl writes the window; the last send is in use from there on. -/
theorem sameLive_enterAwait (hb : s.busy = true) (hlast : s.tLast = s'.tLast) :
    SameLive s.enterAwait s'.enterAwait :=
  { h with
    state := rfl
    session := fun _ => h.session hb
    window := fun _ => ⟨by rw [enterAwait_fcDeadline, enterAwait_fcDeadline, h.now, h.nBs], rfl⟩
    block := nofun
    lastSend := fun _ => hlast }

theorem sameLive_afterFf (hs : s.state = .sendingFirstFrame) (hlast : s.tLast = s'.tLast) :
    SameLive s.afterFf s'.afterFf := by
  have hb : s.busy = true := busy_of_state hs
  obtain ⟨htotal, -, hrest⟩ := h.session hb
  exact sameLive_enterAwait (s := { s with consumed := 6#12 }) (s' := { s' with consumed := 6#12 })
    { h with session := fun _ => ⟨htotal, rfl, hrest⟩ } hb hlast

theorem sameLive_counted (hs : s.state = .sendingConsecutiveFrames) : SameLive s.counted s'.counted := by
  have hb : s.busy = true := busy_of_state hs
  obtain ⟨htotal, hconsumed, hseq, hrest⟩ := h.session hb
  obtain ⟨hsep, hlast, hu, hr⟩ := h.block hs
  exact { h with
    session := fun _ => ⟨htotal, by rw [counted_consumed, counted_consumed, hconsumed, chunkLen_of_sameLive h hb],
      congrArg (· + 1#4) hseq, hrest⟩
    block := fun _ => ⟨hsep, hlast, hu, fun hlim => by
      have hlim : s.bsUnlimited = false := hlim
      rw [counted_bsRem, counted_bsRem, ← hu, hlim, hr hlim]⟩ }

/-- `nextAfterCF()` goes the same way in both (rule R155). -/
theorem sameLive_nextAfterCf (hs : s.state = .sendingConsecutiveFrames) :
    SameLive s.nextAfterCf s'.nextAfterCf := by
  have hb : s.busy = true := busy_of_state hs
  obtain ⟨htotal, hconsumed, -⟩ := h.session hb
  obtain ⟨-, hlast, hu, hr⟩ := h.block hs
  have hblock : (s.bsUnlimited = false ∧ s.bsRem = 0#8) ↔ (s'.bsUnlimited = false ∧ s'.bsRem = 0#8) := by
    rw [← hu]
    exact and_congr_right fun hlim => by rw [hr hlim]
  have hend : s.consumed = s.totalLen ↔ s'.consumed = s'.totalLen := by rw [hconsumed, htotal]
  unfold State.nextAfterCf
  by_cases hdone : s.consumed = s.totalLen
  · rw [if_pos hdone, if_pos (hend.mp hdone)]
    exact sameLive_finish h
  · rw [if_neg hdone, if_neg (mt hend.mpr hdone)]
    by_cases hused : s.bsUnlimited = false ∧ s.bsRem = 0#8
    · rw [if_pos hused, if_pos (hblock.mp hused)]
      exact sameLive_enterAwait h hb hlast
    · rw [if_neg hused, if_neg (mt hblock.mpr hused)]
      exact { h with
        state := rfl
        session := fun _ => h.session hb
        window := nofun
        block := fun _ => h.block hs
        lastSend := nofun }

theorem sameLive_afterCf (hs : s.state = .sendingConsecutiveFrames) : SameLive s.afterCf s'.afterCf :=
  sameLive_nextAfterCf (sameLive_counted h hs) hs

/-! ### The wait window -/

theorem sameLive_recvAnswered (hs : s.state = .awaitingFlowControl) (a : Option (List Byte)) :
    SameLive (s.recvAnswered a) (s'.recvAnswered a) := by
  obtain ⟨-, -, -, -, -, hfc, -⟩ := h.session (busy_of_state hs)
  obtain ⟨hdeadline, -⟩ := h.window hs
  exact { h with bus := by rw [recvAnswered_bus, recvAnswered_bus, h.bus, h.now, hfc, hdeadline] }

theorem sameLive_waitMore (hs : s.state = .awaitingFlowControl) : SameLive s.waitMore s'.waitMore :=
  { h with
    state := rfl
    session := fun _ => h.session (busy_of_state hs)
    window := fun _ => ⟨by rw [waitMore_fcDeadline, waitMore_fcDeadline, h.now, h.nBs], rfl⟩
    block := nofun
    lastSend := fun _ => h.lastSend hs }

/-- A grant writes what a block has a use for, but for the last send, which AwaitingFlowControl had kept. -/
theorem sameLive_grant (hs : s.state = .awaitingFlowControl) (lim : BlockLimit) (sep : BitVec 17) :
    SameLive (s.grant lim sep) (s'.grant lim sep) := by
  obtain ⟨htotal, hconsumed, hseq, -, hrest⟩ := h.session (busy_of_state hs)
  exact { h with
    state := rfl
    session := fun _ => ⟨htotal, hconsumed, hseq, rfl, hrest⟩
    window := nofun
    block := fun _ => ⟨rfl, h.lastSend hs, rfl, fun hlim => by
      cases lim with
      | unlimited => cases hlim
      | limit n => rfl⟩
    lastSend := nofun }

end

theorem sameLive_unobserved : Unobserved SameLive where
  state h := h.state
  nextInput h := by rw [State.nextInput, State.nextInput, h.inputs, h.recurring]
  sendAnswers h := h.sendAnswers
  built := built_of_sameLive
  pacing h hs := by
    obtain ⟨hsep, hlast, -⟩ := h.block hs
    exact ⟨by rw [hsep, hlast], h.now⟩
  window h hs := by
    obtain ⟨-, -, -, hgranted, -⟩ := h.session (busy_of_state hs)
    obtain ⟨hdeadline, hseen⟩ := h.window hs
    exact ⟨h.rxQueue, h.now, hdeadline, hgranted, hseen⟩
  afterInput := sameLive_afterInput
  powerOn := sameLive_powerOn
  raiseError k st h := sameLive_raiseError h k st
  createSession cmd h := sameLive_createSession h cmd
  wait := sameLive_wait
  sentSf d a e h hs := by
    obtain ⟨hsent, -⟩ := sameLive_sentLogged h (busy_of_state hs) d a e
    exact { hsent with
      state := rfl
      result := rfl
      session := nofun
      window := nofun
      block := nofun
      lastSend := nofun }
  sentFf d a e h hs := by
    obtain ⟨hsent, hlast⟩ := sameLive_sentLogged h (busy_of_state hs) d a e
    exact sameLive_afterFf hsent (by rw [sentLogged_eq]; exact hs) hlast
  sentCf d a e h hs := by
    obtain ⟨hsent, -⟩ := sameLive_sentLogged h (busy_of_state hs) d a e
    exact sameLive_afterCf hsent (by rw [sentLogged_eq]; exact hs)
  recvAnswered a h hs := sameLive_recvAnswered h hs a
  delivered d rest h hs := { sameLive_recvAnswered h hs (some d) with rxQueue := rfl }
  waitMore := sameLive_waitMore
  grant lim sep h hs := sameLive_grant h hs lim sep

/-- Settles O49: `SameLive` is a relation that no step can break. -/
theorem unspecifiedRegistersAreNeverRead : Obligations.UnspecifiedRegistersAreNeverRead := by
  unfold Obligations.UnspecifiedRegistersAreNeverRead
  intro s s' t h hstep
  exact matches_step sameLive_unobserved h t hstep

end Sys2Proof.Proofs.Noninterference
end

section
/-! PROOFS. Runs: what a step keeps a run keeps; a session of one Single Frame; a window that runs out; an endless Wait
stream; and blocks of Consecutive Frames with a quiet outside. -/

namespace Sys2Proof.Proofs.Runs
open Sys2Proof.Machine Sys2Proof.Laws Sys2Proof.Proofs.Encoding Sys2Proof.Proofs.Transmission
open Sys2Proof.Proofs.OneStep Sys2Proof.Proofs.Emission Sys2Proof.Proofs.Invariant Sys2Proof.Proofs.Steps
open Sys2Proof.Proofs.Order Sys2Proof.Proofs.Reception

/-! ## Runs in general -/

/-- A run goes on by one step. -/
theorem run_step {s u v : State} {k : Nat} (h : core.run k s = .next u) (hstep : step u = .next v) :
    core.run (k + 1) s = .next v := by
  rw [run_add h, run_succ hstep]
  rfl

/-- What every step keeps, every run keeps. -/
theorem run_keeps {P : State → Prop} (hP : ∀ u v, P u → step u = .next v → P v) {k : Nat} {s t : State}
    (h : core.run k s = .next t) (hs : P s) : P t := by
  induction k generalizing s with
  | zero => cases h; exact hs
  | succ k ih =>
    cases hstep : step s with
    | next u => exact ih ((run_succ hstep k).symm.trans h) (hP s u hs hstep)
    | fault r =>
      have hstep : core.step s = .fault r := hstep
      simp only [Host.Core.run, hstep] at h
      cases h
    | refused r =>
      have hstep : core.step s = .refused r := hstep
      simp only [Host.Core.run, hstep] at h
      cases h

/-- Nothing is left to come from outside, but for answers to the sends and frames already queued. -/
structure Silent (s : State) : Prop where
  inputs : s.inputs = []
  recurring : s.recurring = []

theorem step_of_silent {s : State} (h : Silent s) : step s = blockStep false s :=
  step_nil h.inputs h.recurring

theorem Silent.advance {s : State} (h : Silent s) (n : Nat) : Silent (s.advance n) := ⟨h.inputs, h.recurring⟩

/-- A step of a silent outside is a move of the block. -/
theorem blockMove_of_silent {s t : State} (h : Silent s) (hstep : step s = .next t) : BlockMove s t :=
  blockStep_next ((step_of_silent h).symm.trans hstep)

theorem silent_of_blockMove {s t : State} (h : Silent s) (hmove : BlockMove s t) : Silent t :=
  ⟨(kept_of_blockMove hmove).inputs.trans h.inputs, (kept_of_blockMove hmove).recurring.trans h.recurring⟩

/-! ## A session of one Single Frame -/

/-- A range inside the session reads as that part of the snapshot. -/
theorem memRead_of_snapshot {s : State} {p : List Byte} {addr n : Nat} (hp : s.payload = Memory.ofBytes p)
    (hl : s.totalLen.toNat = p.length) (h1 : 1 ≤ n) (h : addr + n ≤ p.length) :
    s.memRead addr n = .ok ((p.drop addr).take n) := by
  rw [State.memRead, if_pos ⟨h1, hl ▸ h⟩, hp, readRange_ofBytes p h]

/-- The step after START, when START came with the last input. -/
theorem start_of_lastInput {s : State} {inp : StepInput} {cmd : StartCommand} (hidle : s.busy = false)
    (hin : s.inputs = [inp]) (hrec : s.recurring = []) (hhost : inp.host = some (.start cmd))
    (hmin : 1 ≤ cmd.payload.length) (hmax : cmd.payload.length ≤ 4095) :
    step s = .next (s.afterInput.createSession cmd) ∧ Silent (s.afterInput.createSession cmd) ∧ s.nextInput = inp := by
  obtain ⟨hnext, hturn⟩ := nextInput_cons s hin
  refine ⟨(step_of_start (by rw [hnext, hhost])).trans (start_of_legal hidle hmin hmax), ⟨?_, ?_⟩, hnext⟩
  · rw [createSession_inputs, afterInput_inputs, hin]; rfl
  · rw [createSession_recurring, afterInput_recurring, hturn, hrec]

/-- Settles O44: START, then the Single Frame built from the snapshot. -/
theorem singleFrameSession : Obligations.SingleFrameSession := by
  unfold Obligations.SingleFrameSession
  intro s inp cmd a rest hidle hin hrec hhost hmin hmax hanswer
  obtain ⟨hstart, hsilent, hnext⟩ := start_of_lastInput hidle hin hrec hhost hmin (by omega)
  have hstate : (s.afterInput.createSession cmd).state = .sendingSingleFrame := if_pos hmax
  have hlen : (s.afterInput.createSession cmd).totalLen.toNat = cmd.payload.length := ofNat12_toNat_of_le (by omega)
  have hmem := memRead_of_snapshot (s := s.afterInput.createSession cmd) (addr := 0) rfl hlen hmin (by omega)
  rw [List.drop_zero, List.take_length, ← hlen] at hmem
  have hbuilt := builtSf_eq hmem hmax
  have hsend : step (s.afterInput.createSession cmd) =
      .next ((s.afterInput.createSession cmd).sentLogged (encode (.sf cmd.payload)) a .sendFailedSf).afterSf := by
    rw [step_of_silent hsilent,
      blockStep_of_fetch (fetch_sf hstate hbuilt) (RoundTrip.sf _ (by simp [Instr.wellFormed]; omega)),
      exec_sf_of_built hstate hbuilt]
    exact emit_of_answer (s := s.afterInput.createSession cmd) hanswer _ _ _
  refine ⟨_, run_step (k := 1) (run_succ hstart 0) hsend, rfl, rfl, ?_, ?_, ?_⟩
  · rw [framesOf_single hmax, sentLogged_eq]
    exact sendsOf_append s.bus _
  · rw [framesOf_single hmax]; rfl
  · rw [sentLogged_eq, ← hnext]; rfl

/-! ## A window that runs out -/

/-- Until the deadline the block stays inside `BusRecv` (rule R147). -/
theorem run_of_openWindow {s : State} (hsilent : Silent s) (hs : s.state = .awaitingFlowControl)
    (hq : s.rxQueue = []) {j : Nat} (hj : j ≤ s.fcDeadline - s.now) : core.run j s = .next (s.advance j) := by
  induction j with
  | zero => rfl
  | succ j ih =>
    have hopen : (s.advance j).now < (s.advance j).fcDeadline := by simp; omega
    refine run_step (ih (by omega)) ?_
    rw [step_of_silent (hsilent.advance j)]
    exact blockStep_of_waits (fetch_pending (s := s.advance j) hs hq hopen)

/-- Settles O45: the waits up to the deadline, and then the answer `None`. -/
theorem timeoutArrivesInTime : Obligations.TimeoutArrivesInTime := by
  unfold Obligations.TimeoutArrivesInTime
  intro s hs hq hin hrec
  have hsilent : Silent s := ⟨hin, hrec⟩
  have hwaits {j : Nat} (hj : j ≤ s.fcDeadline - s.now) := run_of_openWindow hsilent hs hq hj
  refine ⟨?_, fun j hj => ⟨_, hwaits hj, hs⟩⟩
  have hover : s.fcDeadline ≤ (s.advance (s.fcDeadline - s.now)).now := by simp; omega
  refine ⟨((s.advance (s.fcDeadline - s.now)).recvAnswered none).timeout, run_step (hwaits le_rfl) ?_, rfl, hover⟩
  rw [step_of_silent (hsilent.advance _)]
  exact blockStep_of_timedOut (fetch_timedOut (s := s.advance _) hs (.inr (.inr ⟨hq, hover⟩)))

/-! ## An endless Wait stream -/

/-- The block is waiting, and every input to come brings one Wait frame in time (rule R225). -/
structure HeldByWaits (s : State) : Prop where
  state : s.state = .awaitingFlowControl
  result : s.result = none
  rxQueue : s.rxQueue = []
  endless : s.recurring ≠ []
  waits : ∀ i ∈ s.inputs ++ s.recurring, waitsAgain s.nBs i
  inTime : s.now + s.nextInput.elapsed ≤ s.fcDeadline

/-- While inputs recur, the next input is one of the listed or of the recurring. -/
theorem nextInput_mem_of_endless {s : State} (h : s.recurring ≠ []) : s.nextInput ∈ s.inputs ++ s.recurring := by
  cases hin : s.inputs with
  | cons i is => simp [(nextInput_cons s hin).1]
  | nil =>
    obtain ⟨i, is, hrec⟩ := List.exists_cons_of_ne_nil h
    simp [(nextInput_recurring s hin hrec).1, hrec]

/-- Each step takes the one Wait frame and re-arms the window (rule R150). -/
theorem heldByWaits_step {s : State} (h : HeldByWaits s) :
    ∃ t, step s = .next t ∧ HeldByWaits t ∧ sendsOf t.bus = sendsOf s.bus ∧ t.waitSeen = true ∧
      t.fcDeadline = t.now + t.nBs := by
  obtain ⟨hhost, hrn, -, bs, st, rest, harrive, hrest⟩ := h.waits _ (nextInput_mem_of_endless h.endless)
  have hq : s.afterInput.rxQueue = [0x31#8 :: bs :: st :: rest] := by
    rw [afterInput_rxQueue, h.rxQueue, harrive]; rfl
  have hs : s.afterInput.state = .awaitingFlowControl := h.state
  have hstep : step s = .next (delivered s.afterInput (0x31#8 :: bs :: st :: rest) []).waitMore := by
    rw [step_of_quiet hhost, hrn,
      blockStep_of_fetch (fetch_delivered hs hq h.inTime) (RoundTrip.fcWait bs st rest (restFits_three hrest))]
    exact whenAwaiting_of_awaiting hs _
  refine ⟨_, hstep, ?_, ?_, rfl, rfl⟩
  · have hendless : s.nextRecurring ≠ [] := fun he => by
      obtain ⟨i, is, hrec⟩ := List.exists_cons_of_ne_nil h.endless
      have hi : i ∈ s.nextRecurring := (mem_nextRecurring s i).mpr (by simp [hrec])
      simp [he] at hi
    have hwaits : ∀ i ∈ s.inputs.tail ++ s.nextRecurring, waitsAgain s.nBs i := fun i hi => by
      rcases List.mem_append.mp hi with hi | hi
      · exact h.waits i (List.mem_append_left _ (List.mem_of_mem_tail hi))
      · exact h.waits i (List.mem_append_right _ ((mem_nextRecurring s i).mp hi))
    refine ⟨rfl, h.result, rfl, hendless, hwaits, ?_⟩
    obtain ⟨-, -, hsoon, -⟩ := hwaits _ (nextInput_mem_of_endless (s := s.afterInput) hendless)
    exact Nat.add_le_add_left hsoon _
  · rw [waitMore_bus]
    exact (sendsOf_append s.bus _).trans (List.append_nil _)

/-- Settles O47: `HeldByWaits` is kept by every step, from the first on with the window re-armed. -/
theorem waitStreamHoldsTheBlock : Obligations.WaitStreamHoldsTheBlock := by
  unfold Obligations.WaitStreamHoldsTheBlock
  intro s hinv hs hq hendless hwaits hintime k
  have hheld : HeldByWaits s :=
    ⟨hs, result_eq_none_of_busy hinv (busy_of_state hs), hq, hendless, hwaits, hintime⟩
  suffices hrun : ∃ u, core.run k s = .next u ∧ HeldByWaits u ∧ sendsOf u.bus = sendsOf s.bus ∧
      (1 ≤ k → u.waitSeen = true ∧ u.fcDeadline = u.now + u.nBs) by
    obtain ⟨u, hu, hheld, hsends, harmed⟩ := hrun
    exact ⟨u, hu, hheld.state, congrArg (Option.map Status.code) hheld.result, hsends, harmed⟩
  induction k with
  | zero => exact ⟨s, rfl, hheld, rfl, nofun⟩
  | succ k ih =>
    obtain ⟨u, hu, hheld, hsends, -⟩ := ih
    obtain ⟨t, hstep, ht, hsends', hseen, hdeadline⟩ := heldByWaits_step hheld
    exact ⟨t, run_step hu hstep, ht, hsends'.trans hsends, fun _ => ⟨hseen, hdeadline⟩⟩

end Sys2Proof.Proofs.Runs
end

section
/-! PROOFS. Blocks of Consecutive Frames with nothing to come from outside but the answers of the sends: each frame goes
out after its pacing wait, a finite block ends after its frames, and an unlimited one ends the transfer (rules R131,
R154, R155, R160). -/

namespace Sys2Proof.Proofs.Blocks
open Sys2Proof.Machine Sys2Proof.Laws Sys2Proof.Proofs.Encoding Sys2Proof.Proofs.Transmission
open Sys2Proof.Proofs.OneStep Sys2Proof.Proofs.Emission Sys2Proof.Proofs.Invariant Sys2Proof.Proofs.Steps
open Sys2Proof.Proofs.Order Sys2Proof.Proofs.Reception Sys2Proof.Proofs.Runs

/-! ## One Consecutive Frame -/

/-- The state after a pacing wait of `k` units and the send of `d` (rule R154). -/
def cfSent (s : State) (k : Nat) (d : List Byte) (a : SendAnswer) : State :=
  ((s.advance k).sentLogged d a (.sendFailedCf s.seq)).afterCf

section
variable (s : State) (k : Nat) (d : List Byte) (a : SendAnswer)

theorem cfSent_totalLen : (cfSent s k d a).totalLen = s.totalLen := by
  rw [cfSent, sentLogged_eq, afterCf_eq]; rfl
theorem cfSent_consumed : (cfSent s k d a).consumed = s.consumed + BitVec.ofNat 12 s.chunkLen := by
  rw [cfSent, sentLogged_eq, afterCf_eq]; rfl
theorem cfSent_bsUnlimited : (cfSent s k d a).bsUnlimited = s.bsUnlimited := by
  rw [cfSent, sentLogged_eq, afterCf_eq]; rfl
theorem cfSent_bsRem : (cfSent s k d a).bsRem = if s.bsUnlimited then s.bsRem else s.bsRem - 1#8 := by
  rw [cfSent, sentLogged_eq, afterCf_eq]; rfl
theorem cfSent_rxQueue : (cfSent s k d a).rxQueue = s.rxQueue := by
  rw [cfSent, sentLogged_eq, afterCf_eq]; rfl
theorem cfSent_sendAnswers : (cfSent s k d a).sendAnswers = s.sendAnswers.tail := by
  rw [cfSent, sentLogged_eq, afterCf_eq]; rfl
theorem cfSent_sends : sendsOf (cfSent s k d a).bus = sendsOf s.bus ++ [d] := by
  rw [cfSent, sentLogged_eq, afterCf_eq]; exact sendsOf_append s.bus _

/-- The three ways on (rule R155). -/
theorem cfSent_state :
    (cfSent s k d a).state =
      if s.consumed + BitVec.ofNat 12 s.chunkLen = s.totalLen then .done
      else if s.bsUnlimited = false ∧ s.bsRem - 1#8 = 0#8 then .awaitingFlowControl
      else .sendingConsecutiveFrames := by
  rw [cfSent, sentLogged_eq, afterCf_eq]; rfl

end

section
variable {s : State} (hinv : Inv s) (hs : s.state = .sendingConsecutiveFrames) (hsilent : Silent s)
include hinv hs hsilent

/-- Until the pacing guard is true the block waits (rule R131). -/
theorem run_of_pacing {j : Nat} (hj : j ≤ s.readyAt - s.now) :
    core.run j s = .next (s.advance j) ∧ Inv (s.advance j) := by
  induction j with
  | zero => exact ⟨rfl, hinv⟩
  | succ j ih =>
    obtain ⟨hrun, hinv'⟩ := ih (by omega)
    have hearly : (s.advance j).pacingReady = false := by
      rw [← Bool.not_eq_true, pacingReady_iff]
      simp only [State.readyAt] at hj
      simp; omega
    obtain ⟨c, -, -, hheld, -⟩ := blockStep_cf hinv' hs false
    refine ⟨run_step hrun ?_, inv_wait hinv'⟩
    rw [step_of_silent (hsilent.advance j)]
    exact hheld (.inl hearly)

/-- The next Consecutive Frame goes out as soon as the guard lets it, and the block stays in
SendingConsecutiveFrames until then. -/
theorem cf_goes_out {a : SendAnswer} {rest : List SendAnswer} (ha : s.sendAnswers = a :: rest) :
    ∃ k d, core.run (k + 1) s = .next (cfSent s k d a) ∧ ∀ j ≤ k, core.run j s = .next (s.advance j) := by
  obtain ⟨hrun, hinv'⟩ := run_of_pacing hinv hs hsilent (le_refl (s.readyAt - s.now))
  have hready : (s.advance (s.readyAt - s.now)).pacingReady = true := by
    rw [pacingReady_iff]
    simp [State.readyAt]; omega
  obtain ⟨c, -, -, -, hsent⟩ := blockStep_cf hinv' hs false
  refine ⟨s.readyAt - s.now, encode (.cf s.seq (cfData c)), run_step hrun ?_,
    fun j hj => (run_of_pacing hinv hs hsilent hj).1⟩
  rw [step_of_silent (hsilent.advance _)]
  exact hsent a rest hready ha

end

/-- The invariant and the silence hold along every run of a silent outside. -/
theorem inv_silent_of_run {k : Nat} {s t : State} (hinv : Inv s) (hsilent : Silent s)
    (h : core.run k s = .next t) : Inv t ∧ Silent t := by
  refine run_keeps (P := fun u => Inv u ∧ Silent u) (fun u v ⟨hu, hq⟩ hstep => ?_) h ⟨hinv, hsilent⟩
  have hmove := blockMove_of_silent hq hstep
  exact ⟨inv_blockMove hu hmove, silent_of_blockMove hq hmove⟩

/-! ## A finite block -/

/-- With `n` frames granted and more than `7n` bytes left, by induction on `n`: each frame takes a full chunk, and the
last one uses the block up. -/
theorem block_ends (n : Nat) {s : State} (hinv : Inv s) (hs : s.state = .sendingConsecutiveFrames)
    (hsilent : Silent s) (hlim : s.bsUnlimited = false) (hrem : s.bsRem.toNat = n)
    (hmore : s.consumed.toNat + 7 * n < s.totalLen.toNat) (hanswers : n ≤ s.sendAnswers.length) :
    ∃ k t, core.run k s = .next t ∧ t.state = .awaitingFlowControl ∧ t.bsRem = 0#8 ∧
      (sendsOf t.bus).length = (sendsOf s.bus).length + n ∧ t.consumed.toNat = s.consumed.toNat + 7 * n ∧
      ∀ j, j < k → ∃ u, core.run j s = .next u ∧ u.state = .sendingConsecutiveFrames := by
  induction n generalizing s with
  | zero =>
    obtain ⟨-, hu | hr⟩ := hinv.countdown hs
    · simp [hlim] at hu
    · omega
  | succ n ih =>
    obtain ⟨a, rest, ha⟩ := List.exists_cons_of_length_pos (l := s.sendAnswers) (by omega)
    obtain ⟨k, d, hrun, hwaits⟩ := cf_goes_out hinv hs hsilent ha
    have hstay : ∀ j, j < k + 1 → ∃ u, core.run j s = .next u ∧ u.state = .sendingConsecutiveFrames :=
      fun j hj => ⟨_, hwaits j (by omega), hs⟩
    have hchunk : s.chunkLen = 7 := by simp only [State.chunkLen, Config.cfChunk]; omega
    have hadd := toNat_add_chunkLen hinv.consumed_le
    rw [hchunk] at hadd
    have hnotEnd : s.consumed + BitVec.ofNat 12 s.chunkLen ≠ s.totalLen := fun he => by
      have := congrArg BitVec.toNat he
      rw [hchunk] at this
      omega
    have hconsumed : (cfSent s k d a).consumed.toNat = s.consumed.toNat + 7 := by
      rw [cfSent_consumed, hchunk, hadd]
    have hrem' : (cfSent s k d a).bsRem.toNat = n := by
      rw [cfSent_bsRem, hlim, if_neg (by decide), toNat_sub_one (by omega)]; omega
    have hsends : (sendsOf (cfSent s k d a).bus).length = (sendsOf s.bus).length + 1 := by
      rw [cfSent_sends, List.length_append]; rfl
    have hstate := cfSent_state s k d a
    rw [if_neg hnotEnd] at hstate
    by_cases hlast : n = 0
    case pos =>
      subst hlast
      refine ⟨k + 1, _, hrun, ?_, BitVec.eq_of_toNat_eq hrem', hsends, hconsumed, hstay⟩
      rw [hstate, if_pos ⟨hlim, (sub_one_eq_zero_iff _).mpr hrem⟩]
    case neg =>
      obtain ⟨hinv', hsilent'⟩ := inv_silent_of_run hinv hsilent hrun
      obtain ⟨k', t, hrun', ht, hzero, hcount, hbytes, hstay'⟩ := ih hinv'
        (by rw [hstate, if_neg (by rw [sub_one_eq_zero_iff]; omega)]) hsilent' (by rw [cfSent_bsUnlimited, hlim]) hrem'
        (by rw [hconsumed, cfSent_totalLen]; omega)
        (by rw [cfSent_sendAnswers, List.length_tail]; omega)
      refine ⟨k + 1 + k', t, (run_add hrun k').trans hrun', ht, hzero, by omega, by omega, fun j hj => ?_⟩
      by_cases hjk : j < k + 1
      · exact hstay j hjk
      · obtain ⟨u, hu, hus⟩ := hstay' (j - (k + 1)) (by omega)
        refine ⟨u, ?_, hus⟩
        rw [← hu, ← run_add hrun, Nat.add_sub_cancel' (not_lt.mp hjk)]

/-- Settles O42: `block_ends`. -/
theorem blockEndsAfterItsFrames : Obligations.BlockEndsAfterItsFrames := by
  unfold Obligations.BlockEndsAfterItsFrames
  intro s n hinv hs hlim hrem hmore hin hrec hanswers
  exact block_ends n hinv hs ⟨hin, hrec⟩ hlim hrem hmore hanswers

/-! ## A transfer under one unlimited grant -/

/-- Under an unlimited grant the frames go out until no byte is left, by induction on a bound for their number. -/
theorem unlimited_block_ends (n : Nat) {s : State} (hinv : Inv s) (hs : s.state = .sendingConsecutiveFrames)
    (hsilent : Silent s) (hunlimited : s.bsUnlimited = true) (hleft : s.totalLen.toNat ≤ s.consumed.toNat + 7 * n)
    (hanswers : n ≤ s.sendAnswers.length) :
    ∃ k t, core.run k s = .next t ∧ t.state = .done ∧ t.consumed = t.totalLen ∧ t.rxQueue = s.rxQueue := by
  obtain ⟨-, hlt, -⟩ := hinv.midway (.inr hs)
  induction n generalizing s with
  | zero => omega
  | succ n ih =>
    obtain ⟨a, rest, ha⟩ := List.exists_cons_of_length_pos (l := s.sendAnswers) (by omega)
    obtain ⟨k, d, hrun, -⟩ := cf_goes_out hinv hs hsilent ha
    have hstate := cfSent_state s k d a
    by_cases hend : s.consumed + BitVec.ofNat 12 s.chunkLen = s.totalLen
    case pos =>
      rw [if_pos hend] at hstate
      exact ⟨k + 1, _, hrun, hstate, by rw [cfSent_consumed, cfSent_totalLen, hend], cfSent_rxQueue s k d a⟩
    case neg =>
      rw [if_neg hend, if_neg (by simp [hunlimited])] at hstate
      obtain ⟨hinv', hsilent'⟩ := inv_silent_of_run hinv hsilent hrun
      have hadd := toNat_add_chunkLen hinv.consumed_le
      have hchunk : s.chunkLen = min 7 (s.totalLen.toNat - s.consumed.toNat) := rfl
      have hne : s.consumed.toNat + s.chunkLen ≠ s.totalLen.toNat := fun he =>
        hend (BitVec.eq_of_toNat_eq (hadd.trans he))
      obtain ⟨-, hlt', -⟩ := hinv'.midway (.inr hstate)
      obtain ⟨k', t, hrun', ht, hall, hq⟩ := ih hinv' hstate hsilent' (by rw [cfSent_bsUnlimited, hunlimited])
        (by rw [cfSent_totalLen, cfSent_consumed, hadd]; omega)
        (by rw [cfSent_sendAnswers, List.length_tail]; omega) hlt'
      exact ⟨k + 1 + k', t, (run_add hrun k').trans hrun', ht, hall, hq.trans (cfSent_rxQueue s k d a)⟩

/-- The First Frame goes out and opens the window (rules R145, R146). -/
theorem ff_goes_out {s : State} (hinv : Inv s) (hs : s.state = .sendingFirstFrame) (hsilent : Silent s)
    {a : SendAnswer} {rest : List SendAnswer} (ha : s.sendAnswers = a :: rest) :
    ∃ t, step s = .next t ∧ t.state = .awaitingFlowControl ∧ t.totalLen = s.totalLen ∧ t.consumed = 6#12 ∧
      t.sendAnswers = rest ∧ t.rxQueue = s.rxQueue ∧ t.now ≤ t.fcDeadline := by
  obtain ⟨c, -, -, -, hsent⟩ := blockStep_ff hinv hs false
  refine ⟨_, (step_of_silent hsilent).trans (hsent a rest ha), ?_⟩
  rw [sentLogged_eq, ha]
  exact ⟨rfl, rfl, rfl, rfl, rfl, Nat.le_add_right _ _⟩

/-- An unlimited grant at the head of the queue is taken while the window is open (rules R147, R152). -/
theorem unlimited_grant_taken {s : State} (hs : s.state = .awaitingFlowControl) (hsilent : Silent s) {st : Byte}
    {tail : List Byte} {more : List (List Byte)} (hq : s.rxQueue = (0x30#8 :: 0x00#8 :: st :: tail) :: more)
    (hfits : tail.length ≤ 5) (hopen : s.now ≤ s.fcDeadline) :
    ∃ t, step s = .next t ∧ t.state = .sendingConsecutiveFrames ∧ t.bsUnlimited = true ∧ t.totalLen = s.totalLen ∧
      t.consumed = s.consumed ∧ t.sendAnswers = s.sendAnswers ∧ t.rxQueue = more := by
  refine ⟨(delivered s (0x30#8 :: 0x00#8 :: st :: tail) more).grant (blockLimit 0x00#8) (interpret st), ?_, rfl, rfl,
    rfl, rfl, rfl, rfl⟩
  rw [step_of_silent hsilent,
    blockStep_of_fetch (fetch_delivered hs hq hopen) (RoundTrip.fcCts 0x00#8 st tail (restFits_three hfits))]
  exact whenAwaiting_of_awaiting hs _

/-- The frames sent along a run of a silent outside stay the due first part of the transfer. -/
theorem sentPrefix_of_run {base : List (List Byte)} {p : List Byte} {k : Nat} {s t : State} (hinv : Inv s)
    (hsilent : Silent s) (hprefix : SentPrefix base p s) (h : core.run k s = .next t) : SentPrefix base p t := by
  have hkeep : Inv t ∧ Silent t ∧ SentPrefix base p t := by
    refine run_keeps (P := fun u => Inv u ∧ Silent u ∧ SentPrefix base p u) (fun u v ⟨hu, hq, hp⟩ hstep => ?_) h
      ⟨hinv, hsilent, hprefix⟩
    have hmove := blockMove_of_silent hq hstep
    exact ⟨inv_blockMove hu hmove, silent_of_blockMove hq hmove, sentPrefix_of_blockMove hu hp hmove⟩
  exact hkeep.2.2

/-- When every byte is consumed every frame has gone out. -/
theorem sends_of_all_consumed {base : List (List Byte)} {p : List Byte} {s : State} (h8 : 8 ≤ p.length)
    (hprefix : SentPrefix base p s) (hall : s.consumed = s.totalLen) : sendsOf s.bus = base ++ framesOf p := by
  obtain ⟨-, hlen, hsends⟩ := hprefix
  rw [hsends, hall, hlen, ← length_framesOf h8, List.take_length]

/-- Settles O43: START, the First Frame, the grant, and the unlimited block; the frames sent are the whole transfer
because `SentPrefix` holds along the run and no byte is left at its end. -/
theorem unlimitedTransferCompletes : Obligations.UnlimitedTransferCompletes := by
  unfold Obligations.UnlimitedTransferCompletes
  intro s inp cmd st tail more hinv hidle hin hrec hhost h8 hmax hq hanswers
  obtain ⟨hstart, hsilent, hnext⟩ := start_of_lastInput hidle hin hrec hhost (by omega) hmax
  have hinv₀ := inv_createSession hinv.afterInput (by omega) hmax
  have hlen : (s.afterInput.createSession cmd).totalLen.toNat = cmd.payload.length := ofNat12_toNat_of_le hmax
  have hq₀ : (s.afterInput.createSession cmd).rxQueue = (0x30#8 :: 0x00#8 :: st :: tail) :: more := by
    rw [← hq, ← hnext]; rfl
  have hfits : tail.length ≤ 5 := by
    have := hinv₀.queue_fits (0x30#8 :: 0x00#8 :: st :: tail) (by rw [hq₀]; exact List.mem_cons_self)
    simp at this
    omega
  obtain ⟨a, rest, ha⟩ := List.exists_cons_of_length_pos (l := s.sendAnswers) (by omega)
  obtain ⟨u, hu, hus, hul, huc, hua, huq, huw⟩ := ff_goes_out hinv₀ (if_neg (not_le.mpr h8)) hsilent ha
  have hsilent₁ := silent_of_blockMove hsilent (blockMove_of_silent hsilent hu)
  obtain ⟨v, hv, hvs, hvu, hvl, hvc, hva, hvq⟩ := unlimited_grant_taken hus hsilent₁ (huq.trans hq₀) hfits huw
  have hfirst : core.run 2 (s.afterInput.createSession cmd) = .next v := run_step (run_succ hu 0) hv
  obtain ⟨hinv₂, hsilent₂⟩ := inv_silent_of_run hinv₀ hsilent hfirst
  have hall : v.totalLen.toNat ≤ v.consumed.toNat + 7 * cfCount cmd.payload.length := by
    have h6 : v.consumed.toNat = 6 := congrArg BitVec.toNat (hvc.trans huc)
    rw [hvl, hul, hlen, h6, cfCount]
    omega
  have hready : cfCount cmd.payload.length ≤ v.sendAnswers.length := by
    rw [hva, hua]
    simp [ha] at hanswers
    omega
  obtain ⟨k, t, hrun, htd, htc, htq⟩ := unlimited_block_ends _ hinv₂ hvs hsilent₂ hvu hall hready
  have hsession : core.run (2 + k) (s.afterInput.createSession cmd) = .next t := (run_add hfirst k).trans hrun
  have hprefix := sentPrefix_of_run (base := sendsOf s.bus) (p := cmd.payload) hinv₀ hsilent
    ⟨rfl, hlen, (List.append_nil _).symm⟩ hsession
  obtain ⟨hinv₃, -⟩ := inv_silent_of_run hinv₂ hsilent₂ hrun
  exact ⟨2 + k + 1, t, (run_succ hstart _).trans hsession, htd,
    congrArg (Option.map Status.code) (hinv₃.result_done htd), sends_of_all_consumed h8 hprefix htc, htq.trans hvq⟩

end Sys2Proof.Proofs.Blocks
end

section
/-! PROOFS. Every session ends (rules R217, R232): each step of a fair run ends the session or brings its end closer, in
a lexicographic order whose first place is the number of inputs still listed. -/

namespace Sys2Proof.Proofs.Liveness
open Sys2Proof.Machine Sys2Proof.Laws Sys2Proof.Proofs.Encoding Sys2Proof.Proofs.Transmission
open Sys2Proof.Proofs.OneStep Sys2Proof.Proofs.Emission Sys2Proof.Proofs.Invariant Sys2Proof.Proofs.Steps
open Sys2Proof.Proofs.Runs

/-! ## The distance from the end -/

/-- Payload bytes not yet consumed. -/
def bytesLeft (s : State) : Nat := s.totalLen.toNat - s.consumed.toNat

/-- Awaiting a grant is further from the end than sending under it. -/
def grantsMissing (s : State) : Nat := if s.state = .awaitingFlowControl then 1 else 0

/-- Wait frames in the adapter's queue. -/
def waitsQueued (s : State) : Nat := s.rxQueue.countP (decideFrame · = .waitMore)

/-- Time until the wait window, or the pacing gap, is over. -/
def timeLeft (s : State) : Nat :=
  (if s.state = .awaitingFlowControl then s.fcDeadline + 1 else s.readyAt) - s.now

/-- How far a session is from its end. -/
def distance (s : State) : ℕ ×ₗ ℕ ×ₗ ℕ ×ₗ ℕ ×ₗ ℕ ×ₗ ℕ :=
  toLex (s.inputs.length, toLex (bytesLeft s, toLex (grantsMissing s, toLex (waitsQueued s,
    toLex (timeLeft s, s.rxQueue.length)))))

section
variable {s t : State}

theorem distance_lt_of_inputs (h : t.inputs.length < s.inputs.length) : distance t < distance s :=
  Prod.Lex.lt_iff.mpr (.inl h)

variable (hin : t.inputs.length = s.inputs.length)
include hin

theorem distance_lt_of_bytes (h : bytesLeft t < bytesLeft s) : distance t < distance s :=
  Prod.Lex.lt_iff.mpr (.inr ⟨hin, Prod.Lex.lt_iff.mpr (.inl h)⟩)

variable (hbytes : bytesLeft t = bytesLeft s)
include hbytes

theorem distance_lt_of_grants (h : grantsMissing t < grantsMissing s) : distance t < distance s :=
  Prod.Lex.lt_iff.mpr (.inr ⟨hin, Prod.Lex.lt_iff.mpr (.inr ⟨hbytes, Prod.Lex.lt_iff.mpr (.inl h)⟩)⟩)

variable (hgrants : grantsMissing t = grantsMissing s)
include hgrants

theorem distance_lt_of_waits (h : waitsQueued t < waitsQueued s) : distance t < distance s :=
  Prod.Lex.lt_iff.mpr (.inr ⟨hin, Prod.Lex.lt_iff.mpr (.inr ⟨hbytes, Prod.Lex.lt_iff.mpr (.inr ⟨hgrants,
    Prod.Lex.lt_iff.mpr (.inl h)⟩)⟩)⟩)

variable (hwaits : waitsQueued t = waitsQueued s)
include hwaits

theorem distance_lt_of_time (h : timeLeft t < timeLeft s ∨
    timeLeft t = timeLeft s ∧ t.rxQueue.length < s.rxQueue.length) : distance t < distance s :=
  Prod.Lex.lt_iff.mpr (.inr ⟨hin, Prod.Lex.lt_iff.mpr (.inr ⟨hbytes, Prod.Lex.lt_iff.mpr (.inr ⟨hgrants,
    Prod.Lex.lt_iff.mpr (.inr ⟨hwaits, Prod.Lex.lt_iff.mpr h⟩)⟩)⟩)⟩)

end

/-! ## The premises along a run -/

/-- A good state under the premises of rule R217, with an answer for each byte left at most. -/
structure Fair (s : State) : Prop where
  inv : Inv s
  silent : hostSilent s
  waits : finiteWaits s
  rate : finiteRate s
  answers : bytesLeft s ≤ s.sendAnswers.length

/-- A host that never acts does not act in this step. -/
theorem hostQuiet_of_silent {s : State} (h : hostSilent s) : hostQuiet s := by
  obtain ⟨hin, hrec⟩ := h
  rcases nextInput_mem s with hm | hm | hm
  · exact hin _ hm
  · exact hrec _ hm
  · rw [hostQuiet, hm]; rfl

/-- With no input listed, none of the frames that arrive is a Wait, and time passes before them. -/
theorem arrivals_of_fair {s : State} (h : Fair s) (hin : s.inputs = []) :
    (∀ d ∈ s.nextInput.arrivals, decideFrame d ≠ .waitMore) ∧
      (s.nextInput.arrivals ≠ [] → 1 ≤ s.nextInput.elapsed) := by
  rcases nextInput_mem s with hm | hm | hm
  · simp [hin] at hm
  · exact ⟨h.waits _ hm, h.rate _ hm⟩
  · rw [hm]; exact ⟨nofun, fun hne => absurd rfl hne⟩

/-- A send consumes at least one byte and one answer; any other move neither. -/
theorem bytes_answers_of_blockMove {s t : State} (hinv : Inv s) (hmove : BlockMove s t) :
    (bytesLeft t = bytesLeft s ∧ t.sendAnswers = s.sendAnswers) ∨
      (bytesLeft t < bytesLeft s ∧ t.sendAnswers = s.sendAnswers.tail) := by
  have htotal := (kept_of_blockMove hmove).totalLen
  simp only [bytesLeft, htotal]
  cases hmove with
  | waits ht => exact .inl (by rw [ht]; exact ⟨rfl, rfl⟩)
  | timesOut hs ht => exact .inl (by rw [ht]; exact ⟨rfl, rfl⟩)
  | receives d rest hs hq hw ht =>
    have hkeep := kept_of_rxEffect ht
    exact .inl ⟨by rw [hkeep.consumed]; rfl, hkeep.sendAnswers⟩
  | single d a rest hs hd ha ht =>
    obtain ⟨hlen, hmin⟩ := hinv.busy_len (busy_of_state hs)
    obtain ⟨-, hzero⟩ := hinv.single hs
    have hconsumed : t.consumed = s.totalLen := by rw [ht, sentLogged_eq]; rfl
    refine .inr ⟨?_, by rw [ht, sentLogged_eq]; rfl⟩
    rw [hconsumed, hzero, BitVec.toNat_zero]
    omega
  | first d a rest hs hd ha ht =>
    obtain ⟨hlen, -⟩ := hinv.busy_len (busy_of_state hs)
    obtain ⟨h8, hzero, -⟩ := hinv.first hs
    have hconsumed : t.consumed.toNat = 6 := by rw [ht, sentLogged_eq]; rfl
    refine .inr ⟨?_, by rw [ht, sentLogged_eq]; rfl⟩
    rw [hconsumed, hzero, BitVec.toNat_zero]
    omega
  | consecutive d a rest hs hd hp ha ht =>
    obtain ⟨-, hlt, -⟩ := hinv.midway (.inr hs)
    have hchunk : s.chunkLen = min 7 (s.totalLen.toNat - s.consumed.toNat) := rfl
    have hconsumed : t.consumed.toNat = s.consumed.toNat + s.chunkLen := by
      rw [← toNat_add_chunkLen hlt.le, ht, sentLogged_eq, afterCf_eq]; rfl
    refine .inr ⟨?_, by rw [ht, sentLogged_eq, afterCf_eq]⟩
    rw [hconsumed]
    omega

/-- A move that takes an answer consumes a byte. -/
theorem bytesLeft_lt_of_answered {s t : State} (hinv : Inv s) (hmove : BlockMove s t) {a : SendAnswer}
    (ha : s.sendAnswers = a :: t.sendAnswers) : bytesLeft t < bytesLeft s := by
  obtain ⟨-, hsame⟩ | ⟨hlt, -⟩ := bytes_answers_of_blockMove hinv hmove
  · exact absurd (congrArg List.length (hsame.trans ha)) (by simp)
  · exact hlt

theorem fair_of_blockMove {s t : State} (h : Fair s) (hmove : BlockMove s.afterInput t) : Fair t := by
  have hkeep := kept_of_blockMove hmove
  have hin : t.inputs = s.inputs.tail := hkeep.inputs
  have hrec (i : StepInput) (hi : i ∈ t.recurring) : i ∈ s.recurring := by
    rwa [hkeep.recurring, afterInput_recurring, mem_nextRecurring] at hi
  obtain ⟨hlisted, hrecurring⟩ := h.silent
  refine ⟨inv_blockMove h.inv.afterInput hmove, ⟨fun i hi => ?_, fun i hi => hrecurring i (hrec i hi)⟩,
    fun i hi => h.waits i (hrec i hi), fun i hi => h.rate i (hrec i hi), ?_⟩
  · exact hlisted i (List.mem_of_mem_tail (hin ▸ hi))
  · have hanswers : bytesLeft s.afterInput ≤ s.afterInput.sendAnswers.length := h.answers
    obtain ⟨hbytes, hkept⟩ | ⟨hbytes, htail⟩ := bytes_answers_of_blockMove h.inv.afterInput hmove
    · rw [hbytes, hkept]; exact hanswers
    · rw [htail, List.length_tail]; omega

/-! ## Each step comes closer -/

/-- A step that ends the session or comes closer to its end. -/
def Progress (s t : State) : Prop := t.busy = false ∨ distance t < distance s

/-- The state after a delivered frame, by the decision of rule R123 (rule R147). -/
def afterDecision (s : State) : Decision → State
  | .ignore => s
  | .waitMore => s.waitMore
  | .abort => s.overflow
  | .grant lim sep => s.grant lim sep

theorem blockStep_of_delivered {s : State} (hinv : Inv s) (hs : s.state = .awaitingFlowControl) {d : List Byte}
    {rest : List (List Byte)} (hq : s.rxQueue = d :: rest) (hw : s.now ≤ s.fcDeadline) :
    blockStep false s = .next (afterDecision (delivered s d rest) (decideFrame d)) := by
  obtain ⟨i, hdec, -⟩ := decode_rx_total (hinv.queue_fits d (hq ▸ List.mem_cons_self))
  rw [blockStep_of_fetch (fetch_delivered hs hq hw) hdec,
    receivedFrameActsAsDecided d i (delivered s d rest) hs hdec]
  cases decideFrame d <;> rfl

/-- While a byte is left an answer is ready. -/
theorem answer_of_fair {s : State} (h : Fair s) (hleft : 1 ≤ bytesLeft s) :
    ∃ a rest, s.afterInput.sendAnswers = a :: rest :=
  List.exists_cons_of_length_pos (hleft.trans h.answers)

section
variable {s : State} (h : Fair s) (hin : s.inputs = [])
include h hin

/-- The arrivals of a step without a listed input add no Wait frame. -/
theorem waitsQueued_afterInput : waitsQueued s.afterInput = waitsQueued s := by
  have hnone : s.nextInput.arrivals.countP (decideFrame · = .waitMore) = 0 := by
    rw [List.countP_eq_zero]
    simpa using (arrivals_of_fair h hin).1
  rw [waitsQueued, afterInput_rxQueue, List.countP_append, hnone]
  rfl

theorem progress_of_answered {t : State} {a : SendAnswer} (hmove : BlockMove s.afterInput t)
    (ha : s.afterInput.sendAnswers = a :: t.sendAnswers) : Progress s t := by
  have hless : bytesLeft t < bytesLeft s.afterInput := bytesLeft_lt_of_answered h.inv.afterInput hmove ha
  refine .inr (distance_lt_of_bytes ?_ hless)
  rw [(kept_of_blockMove hmove).inputs, afterInput_inputs, hin]
  rfl

/-- While the pacing guard is false the gap shrinks; then a frame goes out. -/
theorem progress_of_cf (hs : s.state = .sendingConsecutiveFrames) (rn : Bool) :
    ∃ t, blockStep rn s.afterInput = .next t ∧ Progress s t := by
  obtain ⟨-, hlt, -⟩ := h.inv.midway (.inr hs)
  obtain ⟨a, rest, ha⟩ := answer_of_fair h (by rw [bytesLeft]; omega)
  obtain ⟨c, -, -, hheld, hsent⟩ := blockStep_cf h.inv.afterInput hs rn
  cases hp : s.afterInput.pacingReady with
  | true =>
    refine ⟨_, hsent a rest hp ha, progress_of_answered h hin (blockStep_next (hsent a rest hp ha)) (a := a) ?_⟩
    rw [sentLogged_eq, afterCf_eq, ha]
    rfl
  | false =>
    refine ⟨_, hheld (.inl hp), .inr (distance_lt_of_time ?_ rfl ?_ (waitsQueued_afterInput h hin) (.inl ?_))⟩
    · rw [wait_inputs, afterInput_inputs, hin]; rfl
    · rw [grantsMissing, grantsMissing, wait_state, afterInput_state]
    · rw [← Bool.not_eq_true, pacingReady_iff] at hp
      simp [timeLeft, hs, State.readyAt] at hp ⊢
      omega

/-- In AwaitingFlowControl time passes, a Wait frame or another is consumed, a grant comes, or the session ends. -/
theorem progress_of_await (hs : s.state = .awaitingFlowControl) (rn : Bool) :
    ∃ t, blockStep rn s.afterInput = .next t ∧ Progress s t := by
  have hs' : s.afterInput.state = .awaitingFlowControl := hs
  have hlisted : s.afterInput.inputs.length = s.inputs.length := by rw [afterInput_inputs, hin]; rfl
  have hwaits := waitsQueued_afterInput h hin
  obtain ⟨-, hq, rfl, hw⟩ | ⟨-, hnone⟩ | ⟨d, rest, hq, rfl, hw, -⟩ := busRecv_cases s.afterInput rn
  · refine ⟨_, blockStep_of_waits (fetch_pending hs' hq hw),
      .inr (distance_lt_of_time hlisted rfl rfl hwaits (.inl ?_))⟩
    simp [timeLeft, hs] at hw ⊢
    omega
  · exact ⟨_, blockStep_of_timedOut (fetch_timedOut hs' (hnone.imp_right (Or.imp_right (And.imp_right le_of_eq)))),
      .inl rfl⟩
  · refine ⟨_, blockStep_of_delivered h.inv.afterInput hs' hq hw, ?_⟩
    have hcount : waitsQueued s = waitsQueued (delivered s.afterInput d rest) +
        if decideFrame d = .waitMore then 1 else 0 := by
      rw [← hwaits, waitsQueued, hq, List.countP_cons]
      simp [waitsQueued]
    cases hd : decideFrame d with
    | abort => exact .inl rfl
    | grant lim sep => exact .inr (distance_lt_of_grants hlisted rfl (by simp [grantsMissing, afterDecision, hs]))
    | waitMore =>
      refine .inr (distance_lt_of_waits hlisted rfl (by simp [grantsMissing, afterDecision, hs]) ?_)
      rw [hcount, if_pos hd]
      exact Nat.lt_succ_self _
    | ignore =>
      rw [if_neg (by simp [hd])] at hcount
      refine .inr (distance_lt_of_time hlisted rfl rfl hcount.symm ?_)
      have htime : timeLeft s = s.fcDeadline + 1 - s.now := by rw [timeLeft, if_pos hs]
      have htime' : timeLeft (afterDecision (delivered s.afterInput d rest) .ignore) =
          s.fcDeadline + 1 - (s.now + s.nextInput.elapsed) := by
        rw [timeLeft, if_pos (by exact hs)]; rfl
      have hopen : s.now + s.nextInput.elapsed ≤ s.fcDeadline := hw
      rw [htime, htime']
      by_cases harrive : s.nextInput.arrivals = []
      · have hshorter : s.rxQueue = d :: rest := by
          rwa [afterInput_rxQueue, harrive, List.append_nil] at hq
        rw [hshorter]
        change _ ∨ _ ∧ rest.length < rest.length + 1
        omega
      · have helapsed := (arrivals_of_fair h hin).2 harrive
        exact .inl (by omega)

/-- Without a listed input a busy state makes progress. -/
theorem progress_of_unlisted (hb : s.busy = true) (rn : Bool) :
    ∃ t, blockStep rn s.afterInput = .next t ∧ Progress s t := by
  cases hs : s.state with
  | idle | done | error k => simp [busy_of_state hs, MState.busy] at hb
  | sendingSingleFrame =>
    obtain ⟨hlen, hmin⟩ := h.inv.busy_len hb
    obtain ⟨-, hzero⟩ := h.inv.single hs
    obtain ⟨a, rest, ha⟩ := answer_of_fair h (by rw [bytesLeft, hzero, BitVec.toNat_zero]; omega)
    obtain ⟨p, -, -, -, hsent⟩ := blockStep_sf h.inv.afterInput hs rn
    exact ⟨_, hsent a rest ha, .inl rfl⟩
  | sendingFirstFrame =>
    obtain ⟨hlen, hmin⟩ := h.inv.busy_len hb
    obtain ⟨-, hzero, -⟩ := h.inv.first hs
    obtain ⟨a, rest, ha⟩ := answer_of_fair h (by rw [bytesLeft, hzero, BitVec.toNat_zero]; omega)
    obtain ⟨c, -, -, -, hsent⟩ := blockStep_ff h.inv.afterInput hs rn
    refine ⟨_, hsent a rest ha, progress_of_answered h hin (blockStep_next (hsent a rest ha)) (a := a) ?_⟩
    rw [sentLogged_eq, ha]
    rfl
  | sendingConsecutiveFrames => exact progress_of_cf h hin hs rn
  | awaitingFlowControl => exact progress_of_await h hin hs rn

end

/-- Every step of a fair busy state is a move of the block and makes progress. -/
theorem fair_step {s : State} (h : Fair s) (hb : s.busy = true) :
    ∃ t, step s = .next t ∧ Fair t ∧ t.state ≠ .idle ∧ Progress s t := by
  have hstep := step_of_quiet (hostQuiet_of_silent h.silent)
  have hprogress : ∃ t, blockStep s.nextInput.recvNone s.afterInput = .next t ∧ Progress s t := by
    cases hin : s.inputs with
    | nil => exact progress_of_unlisted h hin hb _
    | cons i is =>
      obtain ⟨t, ht⟩ := blockStep_total h.inv.afterInput s.nextInput.recvNone
      refine ⟨t, ht, .inr (distance_lt_of_inputs ?_)⟩
      rw [(kept_of_blockMove (blockStep_next ht)).inputs, afterInput_inputs, hin]
      exact Nat.lt_succ_self _
  obtain ⟨t, ht, hp⟩ := hprogress
  have hmove := blockStep_next ht
  refine ⟨t, hstep.trans ht, fair_of_blockMove h hmove, fun hidle => ?_, hp⟩
  have hedge : blockEdge s.afterInput.state t.state = true := blockEdge_of_blockMove hmove
  rw [hidle] at hedge
  simp [busy_of_state (eq_idle_of_blockEdge hedge : s.state = .idle), MState.busy] at hb

/-- A fair busy state runs to one that is not busy, by induction on `distance`. -/
theorem fair_run_ends {s : State} (h : Fair s) (hb : s.busy = true) :
    ∃ k t, core.run k s = .next t ∧ Fair t ∧ t.state ≠ .idle ∧ t.busy = false := by
  induction hd : distance s using WellFoundedLT.induction generalizing s with
  | ind x ih =>
    obtain ⟨t, hstep, ht, hnotIdle, hprogress⟩ := fair_step h hb
    cases hbt : t.busy with
    | false => exact ⟨1, t, run_succ hstep 0, ht, hnotIdle, hbt⟩
    | true =>
      have hcloser : distance t < x := hd ▸ hprogress.resolve_left (by simp [hbt])
      obtain ⟨k, u, hrun, hu⟩ := ih _ hcloser ht hbt rfl
      exact ⟨k + 1, u, (run_succ hstep k).trans hrun, hu⟩

/-- Settles O46: the state that is not busy any more has a result, as it is not `Idle` (rule R45). -/
theorem everySessionEnds : Obligations.EverySessionEnds := by
  unfold Obligations.EverySessionEnds
  intro s hinv hb hsilent hwaits hrate hanswers
  obtain ⟨k, t, hrun, ht, hnotIdle, hended⟩ := fair_run_ends ⟨hinv, hsilent, hwaits, hrate, hanswers⟩ hb
  refine ⟨k, t, hrun, hended, fun hnone => ?_⟩
  have hresult : t.result = none := Option.map_eq_none_iff.mp hnone
  rcases ht.inv.result_none.mp hresult with hbusy | hidle
  · simp [hended] at hbusy
  · exact hnotIdle hidle

end Sys2Proof.Proofs.Liveness
end
